-- ==== Sys2Proof/Word.lean ====
section
/-! DEFINITION. The words of the block: bytes, register words, the small fields, and the two input-word formats. -/

namespace Sys2Proof

/-- One byte of a FIFO or of the setup record. -/
abbrev Byte := BitVec 8

/-- One 32-bit register word (20 R72). -/
abbrev Word := BitVec 32

/-- An endpoint number, 0..15 (00 R10, `EPW`). -/
abbrev EpNum := BitVec 4

/-- A device address (00 R10, `ADRW`). -/
abbrev DevAddr := BitVec 7

/-- One bit for each endpoint: an enable vector or the toggle vector (00 R10, `DTW`). -/
abbrev EpVec := BitVec 16

/-- Three event bits: bit 0 SETUP, bit 1 IN, bit 2 OUT (10 R38). -/
abbrev EvBits := BitVec 3

/-- One input word (30 R90).
The agent that performs the step decides the format, so the constructor is the agent (00 R7). -/
inductive InputWord where
  /-- a protocol event word, given by the transfer core (30 R91) -/
  | pew (w : BitVec 24)
  /-- a CPU access word, given by the CPU (30 R100) -/
  | caw (w : BitVec 41)
  deriving DecidableEq, Repr

/-- The agent that performs a step (00 R7). -/
inductive Agent where
  | protocol
  | control
  deriving DecidableEq, Repr

/-- The agent whose word this is. -/
def InputWord.agent : InputWord → Agent
  | .pew _ => .protocol
  | .caw _ => .control

end Sys2Proof
end

