-- ==== Sys2Proof/Config.lean ====
section
/-! DEFINITION. What an implementation fixes (the parameters and constants of 00 R10), and the free values. -/

namespace Sys2Proof

namespace Config

/-- The parameters of 00 R10 that a model takes as arguments. -/
structure Params where
  /-- `CTR_W - 1`, so that `CTR_W` is 1..32 by its type -/
  ctrWPred : Fin 32
  /-- `DEBUG_PRESENT`: whether the optional debug stage exists -/
  debugPresent : Bool
  deriving DecidableEq, Repr

/-- `CTR_W`, the width of the diagnostic counters in bits, 1..32. -/
def Params.ctrW (p : Params) : Nat := p.ctrWPred.val + 1

/-- The largest value a diagnostic counter holds (10 R28). -/
def Params.ctrMax (p : Params) : Nat := 2 ^ p.ctrW - 1

/-- The defaults of 00 R10: `CTR_W = 32`, `DEBUG_PRESENT = false`. -/
def Params.default : Params := { ctrWPred := 31, debugPresent := false }

/-- `SETUP_CAP` (00 R10): the bytes of a setup record. -/
abbrev setupCap : Nat := 10

/-- `IN_CAP` (00 R10): the capacity of the IN transmit queue. -/
def inCap : Nat := 128

/-- `OUT_CAP` (00 R10): the capacity of the OUT receive queue, committed and open bytes together. -/
def outCap : Nat := 128

/-- `CSR_BASE` (20 R79): the platform's base of the register space.
DESIGN CHOICE (log entry 18): no value, since no rule reads it. -/
opaque csrBase : Nat

/-- `draw8()` (00 R12), a free byte for each step.
DESIGN CHOICE (log entry 4): no body, so that no proof can know a value of it. -/
opaque draw8 : Nat → Byte

/-- The outputs the debug bridge drives in route R_DEBUG (40 R140, 93 U7), free for each step.
DESIGN CHOICE (log entry 5). -/
opaque bridgeArm : Nat → Bool

/-- The bridge's `stall`, free for each step (log entry 5). -/
opaque bridgeStall : Nat → Bool

/-- The bridge's `dtb`, free for each step (log entry 5). -/
opaque bridgeDtb : Nat → Bool

/-- The bridge's `tx_have`, free for each step (log entry 5). -/
opaque bridgeTxHave : Nat → Bool

/-- The bridge's `tx_byte`, free for each step (log entry 5). -/
opaque bridgeTxByte : Nat → Byte

end Config

end Sys2Proof
end

