-- ==== Sys2Proof/Syntax.lean ====
section
/-! DEFINITION. The instructions: one constructor for each row of spec/opcode_table.json (30 R103). -/

namespace Sys2Proof

/-- An instruction is one input word (00 R8): a protocol event, or a register access by the CPU.
Tokens carry ADDR and EP (the PID is the constructor); a write carries D; an access to an unmapped
block and a reserved kind carry the bits that their row leaves open (OFF[7:2], KIND).
Bits the decoder ignores are no operands (30 R95, R105; log entry 10). -/
inductive Instr where
  | nop (i : Bool)  -- NOP: 40 R123
  | start  -- START: 40 R124
  | tokenInvalidRsv0 (addr : DevAddr) (ep : EpNum)  -- TOKEN_INVALID_RSV0: 40 R126
  | tokenOut (addr : DevAddr) (ep : EpNum)  -- TOKEN_OUT: 40 R130
  | tokenInvalidAck (addr : DevAddr) (ep : EpNum)  -- TOKEN_INVALID_ACK: 40 R126
  | tokenInvalidData0 (addr : DevAddr) (ep : EpNum)  -- TOKEN_INVALID_DATA0: 40 R126
  | tokenInvalidPing (addr : DevAddr) (ep : EpNum)  -- TOKEN_INVALID_PING: 40 R126
  | tokenSof (addr : DevAddr) (ep : EpNum)  -- TOKEN_SOF: 40 R127
  | tokenInvalidNyet (addr : DevAddr) (ep : EpNum)  -- TOKEN_INVALID_NYET: 40 R126
  | tokenInvalidData2 (addr : DevAddr) (ep : EpNum)  -- TOKEN_INVALID_DATA2: 40 R126
  | tokenInvalidSplit (addr : DevAddr) (ep : EpNum)  -- TOKEN_INVALID_SPLIT: 40 R126
  | tokenIn (addr : DevAddr) (ep : EpNum)  -- TOKEN_IN: 40 R130
  | tokenInvalidNak (addr : DevAddr) (ep : EpNum)  -- TOKEN_INVALID_NAK: 40 R126
  | tokenInvalidData1 (addr : DevAddr) (ep : EpNum)  -- TOKEN_INVALID_DATA1: 40 R126
  | tokenInvalidPreErr (addr : DevAddr) (ep : EpNum)  -- TOKEN_INVALID_PRE_ERR: 40 R126
  | tokenSetup (addr : DevAddr) (ep : EpNum)  -- TOKEN_SETUP: 40 R129
  | tokenInvalidStall (addr : DevAddr) (ep : EpNum)  -- TOKEN_INVALID_STALL: 40 R126
  | tokenInvalidMdata (addr : DevAddr) (ep : EpNum)  -- TOKEN_INVALID_MDATA: 40 R126
  | rxb (b : Byte)  -- RXB: 40 R131
  | txpop  -- TXPOP: 40 R132
  | dend  -- DEND: 40 R133
  | txnEnd (c : Bool)  -- END: 40 R134
  | err  -- ERR: 60 R300
  | brst  -- BRST: 60 R301
  | dbg (a : Bool)  -- DBG: 41 R172
  | reservedKindAB (kind : BitVec 4)  -- RESERVED_KIND_A_B: 30 R97
  | reservedKindCF (kind : BitVec 4)  -- RESERVED_KIND_C_F: 30 R97
  | rdAddress  -- RD_ADDRESS: 45 R270
  | wrAddress (d : Word)  -- WR_ADDRESS: 45 R271
  | rdEnableOut  -- RD_ENABLE_OUT: 45 R272
  | wrEnableOut (d : Word)  -- WR_ENABLE_OUT: 45 R273
  | rdEnableIn  -- RD_ENABLE_IN: 45 R274
  | wrEnableIn (d : Word)  -- WR_ENABLE_IN: 45 R275
  | rdStage  -- RD_STAGE: 45 R276
  | wrStage (d : Word)  -- WR_STAGE: 45 R284
  | rdErrorCount  -- RD_ERROR_COUNT: 45 R277
  | wrErrorCount (d : Word)  -- WR_ERROR_COUNT: 45 R284
  | rdInvalidStateCount  -- RD_INVALID_STATE_COUNT: 45 R278
  | wrInvalidStateCount (d : Word)  -- WR_INVALID_STATE_COUNT: 45 R284
  | rdTokenWaitCount  -- RD_TOKEN_WAIT_COUNT: 45 R279
  | wrTokenWaitCount (d : Word)  -- WR_TOKEN_WAIT_COUNT: 45 R284
  | rdEvPending  -- RD_EV_PENDING: 45 R280
  | wrEvPending (d : Word)  -- WR_EV_PENDING: 45 R281
  | rdEvEnable  -- RD_EV_ENABLE: 45 R282
  | wrEvEnable (d : Word)  -- WR_EV_ENABLE: 45 R283
  | rdSetupData  -- RD_SETUP_DATA: 42 R196
  | wrSetupData (d : Word)  -- WR_SETUP_DATA: 45 R284
  | rdSetupAdvance  -- RD_SETUP_ADVANCE: 45 R285
  | wrSetupAdvance (d : Word)  -- WR_SETUP_ADVANCE: 42 R197
  | rdSetupStatus  -- RD_SETUP_STATUS: 42 R198
  | wrSetupStatus (d : Word)  -- WR_SETUP_STATUS: 45 R284
  | rdInData  -- RD_IN_DATA: 45 R285
  | wrInData (d : Word)  -- WR_IN_DATA: 43 R220
  | rdInCtrl  -- RD_IN_CTRL: 45 R285
  | wrInCtrl (d : Word)  -- WR_IN_CTRL: 43 R221
  | rdInStatus  -- RD_IN_STATUS: 43 R222
  | wrInStatus (d : Word)  -- WR_IN_STATUS: 45 R284
  | rdOutData  -- RD_OUT_DATA: 44 R250
  | wrOutData (d : Word)  -- WR_OUT_DATA: 45 R284
  | rdOutCtrl  -- RD_OUT_CTRL: 45 R285
  | wrOutCtrl (d : Word)  -- WR_OUT_CTRL: 44 R251
  | rdOutStatus  -- RD_OUT_STATUS: 44 R252
  | wrOutStatus (d : Word)  -- WR_OUT_STATUS: 45 R284
  | rdUnmapped48 (reg : BitVec 6)  -- RD_UNMAPPED_48: 45 R286
  | wrUnmapped48 (reg : BitVec 6) (d : Word)  -- WR_UNMAPPED_48: 45 R286
  | rdUnmapped50 (reg : BitVec 6)  -- RD_UNMAPPED_50: 45 R286
  | wrUnmapped50 (reg : BitVec 6) (d : Word)  -- WR_UNMAPPED_50: 45 R286
  | rdUnmapped60 (reg : BitVec 6)  -- RD_UNMAPPED_60: 45 R286
  | wrUnmapped60 (reg : BitVec 6) (d : Word)  -- WR_UNMAPPED_60: 45 R286
  | rdUnmapped80 (reg : BitVec 6)  -- RD_UNMAPPED_80: 45 R286
  | wrUnmapped80 (reg : BitVec 6) (d : Word)  -- WR_UNMAPPED_80: 45 R286
  deriving DecidableEq, Repr

/-- The agent that performs the instruction: a PEW row is the protocol agent's, a CAW row the CPU's (30 R90). -/
def Instr.agent : Instr → Agent
  | .nop _ | .start | .tokenInvalidRsv0 _ _ | .tokenOut _ _ | .tokenInvalidAck _ _
  | .tokenInvalidData0 _ _ | .tokenInvalidPing _ _ | .tokenSof _ _ | .tokenInvalidNyet _ _ | .tokenInvalidData2 _ _
  | .tokenInvalidSplit _ _ | .tokenIn _ _ | .tokenInvalidNak _ _ | .tokenInvalidData1 _ _ | .tokenInvalidPreErr _ _
  | .tokenSetup _ _ | .tokenInvalidStall _ _ | .tokenInvalidMdata _ _ | .rxb _ | .txpop
  | .dend | .txnEnd _ | .err | .brst | .dbg _
  | .reservedKindAB _ | .reservedKindCF _ => .protocol
  | .rdAddress | .wrAddress _ | .rdEnableOut | .wrEnableOut _ | .rdEnableIn
  | .wrEnableIn _ | .rdStage | .wrStage _ | .rdErrorCount | .wrErrorCount _
  | .rdInvalidStateCount | .wrInvalidStateCount _ | .rdTokenWaitCount | .wrTokenWaitCount _ | .rdEvPending
  | .wrEvPending _ | .rdEvEnable | .wrEvEnable _ | .rdSetupData | .wrSetupData _
  | .rdSetupAdvance | .wrSetupAdvance _ | .rdSetupStatus | .wrSetupStatus _ | .rdInData
  | .wrInData _ | .rdInCtrl | .wrInCtrl _ | .rdInStatus | .wrInStatus _
  | .rdOutData | .wrOutData _ | .rdOutCtrl | .wrOutCtrl _ | .rdOutStatus
  | .wrOutStatus _ | .rdUnmapped48 _ | .wrUnmapped48 _ _ | .rdUnmapped50 _ | .wrUnmapped50 _ _
  | .rdUnmapped60 _ | .wrUnmapped60 _ _ | .rdUnmapped80 _ | .wrUnmapped80 _ _ => .control

end Sys2Proof
end

