-- ==== Sys2Proof/WellFormed.lean ====
section
/-! DEFINITION. Which instructions an input word can carry: the operand bits of a reserved kind and of an unmapped
block stay inside their row (30 R97, R103, R104). Every other operand is legal at every value (30 R96, R101). -/

namespace Sys2Proof

/-- The register index `OFF[7:2]` lies in the block from `lo` to `hi`. -/
def regWithin (lo hi reg : BitVec 6) : Bool := decide (lo ≤ reg ∧ reg ≤ hi)

/-- The instruction is the reading of some input word. -/
def Instr.wf : Instr → Bool
  | .reservedKindAB kind => decide (kind = 0xA#4 ∨ kind = 0xB#4)  -- KIND 0xA to 0xB
  | .reservedKindCF kind => decide (0xC#4 ≤ kind)  -- KIND 0xC to 0xF
  | .rdUnmapped48 reg => regWithin 0x12#6 0x13#6 reg  -- OFF 0x48 to 0x4C
  | .wrUnmapped48 reg _ => regWithin 0x12#6 0x13#6 reg  -- OFF 0x48 to 0x4C
  | .rdUnmapped50 reg => regWithin 0x14#6 0x17#6 reg  -- OFF 0x50 to 0x5C
  | .wrUnmapped50 reg _ => regWithin 0x14#6 0x17#6 reg  -- OFF 0x50 to 0x5C
  | .rdUnmapped60 reg => regWithin 0x18#6 0x1F#6 reg  -- OFF 0x60 to 0x7C
  | .wrUnmapped60 reg _ => regWithin 0x18#6 0x1F#6 reg  -- OFF 0x60 to 0x7C
  | .rdUnmapped80 reg => regWithin 0x20#6 0x3F#6 reg  -- OFF 0x80 to 0xFC
  | .wrUnmapped80 reg _ => regWithin 0x20#6 0x3F#6 reg  -- OFF 0x80 to 0xFC
  | .nop _ | .start | .tokenInvalidRsv0 _ _ | .tokenOut _ _ | .tokenInvalidAck _ _
  | .tokenInvalidData0 _ _ | .tokenInvalidPing _ _ | .tokenSof _ _ | .tokenInvalidNyet _ _ | .tokenInvalidData2 _ _
  | .tokenInvalidSplit _ _ | .tokenIn _ _ | .tokenInvalidNak _ _ | .tokenInvalidData1 _ _ | .tokenInvalidPreErr _ _
  | .tokenSetup _ _ | .tokenInvalidStall _ _ | .tokenInvalidMdata _ _ | .rxb _ | .txpop
  | .dend | .txnEnd _ | .err | .brst | .dbg _
  | .rdAddress | .wrAddress _ | .rdEnableOut | .wrEnableOut _ | .rdEnableIn
  | .wrEnableIn _ | .rdStage | .wrStage _ | .rdErrorCount | .wrErrorCount _
  | .rdInvalidStateCount | .wrInvalidStateCount _ | .rdTokenWaitCount | .wrTokenWaitCount _ | .rdEvPending
  | .wrEvPending _ | .rdEvEnable | .wrEvEnable _ | .rdSetupData | .wrSetupData _
  | .rdSetupAdvance | .wrSetupAdvance _ | .rdSetupStatus | .wrSetupStatus _ | .rdInData
  | .wrInData _ | .rdInCtrl | .wrInCtrl _ | .rdInStatus | .wrInStatus _
  | .rdOutData | .wrOutData _ | .rdOutCtrl | .wrOutCtrl _ | .rdOutStatus
  | .wrOutStatus _ => true

end Sys2Proof
end

