-- ==== Sys2Proof/Decode.lean ====
section
/-! DEFINITION. The decoder, total on every input word (30 R90 to R105), the encoder beside it, and the opcode table's
match and mask of every row (30 R103, R104). -/

namespace Sys2Proof

/-! ### Fields of a protocol event word (30 R91, R93, R95) -/

/-- KIND, `w[23:20]`. -/
def pewKind (w : BitVec 24) : BitVec 4 := w.extractLsb' 20 4

/-- PID of a TOKEN, `w[19:16]`. -/
def pewPid (w : BitVec 24) : BitVec 4 := w.extractLsb' 16 4

/-- ADDR of a TOKEN, `w[14:8]`; `w[15]` is ignored. -/
def pewAddr (w : BitVec 24) : DevAddr := w.extractLsb' 8 7

/-- EP of a TOKEN, `w[3:0]`; `w[7:4]` are ignored. -/
def pewEp (w : BitVec 24) : EpNum := w.extractLsb' 0 4

/-- B of an RXB, `w[7:0]`. -/
def pewByte (w : BitVec 24) : Byte := w.extractLsb' 0 8

/-- I of a NOP, C of an END, A of a DBG: `w[0]`. -/
def pewBit (w : BitVec 24) : Bool := w.getLsbD 0

/-! ### Fields of a CPU access word (30 R100, R101) -/

/-- W, `w[40]`: 1 = write. -/
def cawWrite (w : BitVec 41) : Bool := w.getLsbD 40

/-- The register index `OFF[7:2]`, `w[39:34]`; `OFF[1:0]` are ignored (20 R75). -/
def cawReg (w : BitVec 41) : BitVec 6 := w.extractLsb' 34 6

/-- D, `w[31:0]`. -/
def cawData (w : BitVec 41) : Word := w.extractLsb' 0 32

/-! ### The decoder -/

/-- A TOKEN, by its PID (30 R94). -/
def decodeToken (pid : BitVec 4) (addr : DevAddr) (ep : EpNum) : Instr :=
  match pid with
  | 0x0#4 => .tokenInvalidRsv0 addr ep
  | 0x1#4 => .tokenOut addr ep
  | 0x2#4 => .tokenInvalidAck addr ep
  | 0x3#4 => .tokenInvalidData0 addr ep
  | 0x4#4 => .tokenInvalidPing addr ep
  | 0x5#4 => .tokenSof addr ep
  | 0x6#4 => .tokenInvalidNyet addr ep
  | 0x7#4 => .tokenInvalidData2 addr ep
  | 0x8#4 => .tokenInvalidSplit addr ep
  | 0x9#4 => .tokenIn addr ep
  | 0xA#4 => .tokenInvalidNak addr ep
  | 0xB#4 => .tokenInvalidData1 addr ep
  | 0xC#4 => .tokenInvalidPreErr addr ep
  | 0xD#4 => .tokenSetup addr ep
  | 0xE#4 => .tokenInvalidStall addr ep
  | _ => .tokenInvalidMdata addr ep  -- 0xF, the one PID left

/-- A protocol event word, by its KIND (30 R92, R97). -/
def decodePew (w : BitVec 24) : Instr :=
  match pewKind w with
  | 0x0#4 => .nop (pewBit w)
  | 0x1#4 => .start
  | 0x2#4 => decodeToken (pewPid w) (pewAddr w) (pewEp w)
  | 0x3#4 => .rxb (pewByte w)
  | 0x4#4 => .txpop
  | 0x5#4 => .dend
  | 0x6#4 => .txnEnd (pewBit w)
  | 0x7#4 => .err
  | 0x8#4 => .brst
  | 0x9#4 => .dbg (pewBit w)
  | 0xA#4 => .reservedKindAB 0xA#4
  | 0xB#4 => .reservedKindAB 0xB#4
  | kind => .reservedKindCF kind  -- 0xC to 0xF, the kinds left

/-- A read, by its register index (45 R287). -/
def decodeRd (reg : BitVec 6) : Instr :=
  if reg = 0x00#6 then .rdAddress
  else if reg = 0x01#6 then .rdEnableOut
  else if reg = 0x02#6 then .rdEnableIn
  else if reg = 0x03#6 then .rdStage
  else if reg = 0x04#6 then .rdErrorCount
  else if reg = 0x05#6 then .rdInvalidStateCount
  else if reg = 0x06#6 then .rdTokenWaitCount
  else if reg = 0x07#6 then .rdEvPending
  else if reg = 0x08#6 then .rdEvEnable
  else if reg = 0x09#6 then .rdSetupData
  else if reg = 0x0A#6 then .rdSetupAdvance
  else if reg = 0x0B#6 then .rdSetupStatus
  else if reg = 0x0C#6 then .rdInData
  else if reg = 0x0D#6 then .rdInCtrl
  else if reg = 0x0E#6 then .rdInStatus
  else if reg = 0x0F#6 then .rdOutData
  else if reg = 0x10#6 then .rdOutCtrl
  else if reg = 0x11#6 then .rdOutStatus
  else if reg &&& 0x3E#6 = 0x12#6 then .rdUnmapped48 reg
  else if reg &&& 0x3C#6 = 0x14#6 then .rdUnmapped50 reg
  else if reg &&& 0x38#6 = 0x18#6 then .rdUnmapped60 reg
  else .rdUnmapped80 reg

/-- A write, by its register index (45 R287). -/
def decodeWr (reg : BitVec 6) (d : Word) : Instr :=
  if reg = 0x00#6 then .wrAddress d
  else if reg = 0x01#6 then .wrEnableOut d
  else if reg = 0x02#6 then .wrEnableIn d
  else if reg = 0x03#6 then .wrStage d
  else if reg = 0x04#6 then .wrErrorCount d
  else if reg = 0x05#6 then .wrInvalidStateCount d
  else if reg = 0x06#6 then .wrTokenWaitCount d
  else if reg = 0x07#6 then .wrEvPending d
  else if reg = 0x08#6 then .wrEvEnable d
  else if reg = 0x09#6 then .wrSetupData d
  else if reg = 0x0A#6 then .wrSetupAdvance d
  else if reg = 0x0B#6 then .wrSetupStatus d
  else if reg = 0x0C#6 then .wrInData d
  else if reg = 0x0D#6 then .wrInCtrl d
  else if reg = 0x0E#6 then .wrInStatus d
  else if reg = 0x0F#6 then .wrOutData d
  else if reg = 0x10#6 then .wrOutCtrl d
  else if reg = 0x11#6 then .wrOutStatus d
  else if reg &&& 0x3E#6 = 0x12#6 then .wrUnmapped48 reg d
  else if reg &&& 0x3C#6 = 0x14#6 then .wrUnmapped50 reg d
  else if reg &&& 0x38#6 = 0x18#6 then .wrUnmapped60 reg d
  else .wrUnmapped80 reg d

/-- A CPU access word: W, then the register index; D of a read is ignored (30 R100). -/
def decodeCaw (w : BitVec 41) : Instr :=
  if cawWrite w then decodeWr (cawReg w) (cawData w) else decodeRd (cawReg w)

/-- The instruction of an input word. Every word has one (30 R103), so nothing is refused here: a reserved KIND decodes
to its own row, whose meaning refuses it by name (log entry 11). -/
def decode : InputWord → Instr
  | .pew w => decodePew w
  | .caw w => decodeCaw w

/-- The input word of an opcode-table word: the rows of at most 24 bits are PEW, the 41-bit rows (48 in whole bytes) CAW
(log entry 13). -/
def InputWord.ofTable (nbits w : Nat) : InputWord :=
  if nbits ≤ 32 then .pew (BitVec.ofNat 24 w) else .caw (BitVec.ofNat 41 w)

/-- What the decoder reads from an opcode-table word. -/
def decodeTableWord (nbits w : Nat) : Option Instr := some (decode (InputWord.ofTable nbits w))

/-! ### The encoder: ignored bits are written 0 (30 R95, R100) -/

/-- A PEW: KIND and payload (30 R91). -/
def pewWord (kind : BitVec 4) (payload : BitVec 20) : InputWord := .pew (kind ++ payload)

/-- A one-bit payload (30 R95). -/
def bitPayload (b : Bool) : BitVec 20 := 0#19 ++ BitVec.ofBool b

/-- The payload of an RXB (30 R95). -/
def bytePayload (b : Byte) : BitVec 20 := 0#12 ++ b

/-- A TOKEN (30 R93). -/
def tokenWord (pid : BitVec 4) (addr : DevAddr) (ep : EpNum) : InputWord :=
  pewWord 0x2#4 (pid ++ 0#1 ++ addr ++ 0#4 ++ ep)

/-- A CAW with `OFF = 4 * reg` (30 R100). -/
def cawWord (write : Bool) (reg : BitVec 6) (d : Word) : InputWord :=
  .caw (BitVec.ofBool write ++ reg ++ 0#2 ++ d)

/-- A read of the register at index `reg`; a script writes D = 0 (30 R100). -/
def readWord (reg : BitVec 6) : InputWord := cawWord false reg 0#32

/-- A write of `d` to the register at index `reg`. -/
def writeWord (reg : BitVec 6) (d : Word) : InputWord := cawWord true reg d

/-- The word of an instruction. -/
def encode : Instr → InputWord
  | .nop i => pewWord 0x0#4 (bitPayload i)
  | .start => pewWord 0x1#4 0#20
  | .tokenInvalidRsv0 addr ep => tokenWord 0x0#4 addr ep
  | .tokenOut addr ep => tokenWord 0x1#4 addr ep
  | .tokenInvalidAck addr ep => tokenWord 0x2#4 addr ep
  | .tokenInvalidData0 addr ep => tokenWord 0x3#4 addr ep
  | .tokenInvalidPing addr ep => tokenWord 0x4#4 addr ep
  | .tokenSof addr ep => tokenWord 0x5#4 addr ep
  | .tokenInvalidNyet addr ep => tokenWord 0x6#4 addr ep
  | .tokenInvalidData2 addr ep => tokenWord 0x7#4 addr ep
  | .tokenInvalidSplit addr ep => tokenWord 0x8#4 addr ep
  | .tokenIn addr ep => tokenWord 0x9#4 addr ep
  | .tokenInvalidNak addr ep => tokenWord 0xA#4 addr ep
  | .tokenInvalidData1 addr ep => tokenWord 0xB#4 addr ep
  | .tokenInvalidPreErr addr ep => tokenWord 0xC#4 addr ep
  | .tokenSetup addr ep => tokenWord 0xD#4 addr ep
  | .tokenInvalidStall addr ep => tokenWord 0xE#4 addr ep
  | .tokenInvalidMdata addr ep => tokenWord 0xF#4 addr ep
  | .rxb b => pewWord 0x3#4 (bytePayload b)
  | .txpop => pewWord 0x4#4 0#20
  | .dend => pewWord 0x5#4 0#20
  | .txnEnd c => pewWord 0x6#4 (bitPayload c)
  | .err => pewWord 0x7#4 0#20
  | .brst => pewWord 0x8#4 0#20
  | .dbg a => pewWord 0x9#4 (bitPayload a)
  | .reservedKindAB kind => pewWord kind 0#20
  | .reservedKindCF kind => pewWord kind 0#20
  | .rdAddress => readWord 0x00#6
  | .wrAddress d => writeWord 0x00#6 d
  | .rdEnableOut => readWord 0x01#6
  | .wrEnableOut d => writeWord 0x01#6 d
  | .rdEnableIn => readWord 0x02#6
  | .wrEnableIn d => writeWord 0x02#6 d
  | .rdStage => readWord 0x03#6
  | .wrStage d => writeWord 0x03#6 d
  | .rdErrorCount => readWord 0x04#6
  | .wrErrorCount d => writeWord 0x04#6 d
  | .rdInvalidStateCount => readWord 0x05#6
  | .wrInvalidStateCount d => writeWord 0x05#6 d
  | .rdTokenWaitCount => readWord 0x06#6
  | .wrTokenWaitCount d => writeWord 0x06#6 d
  | .rdEvPending => readWord 0x07#6
  | .wrEvPending d => writeWord 0x07#6 d
  | .rdEvEnable => readWord 0x08#6
  | .wrEvEnable d => writeWord 0x08#6 d
  | .rdSetupData => readWord 0x09#6
  | .wrSetupData d => writeWord 0x09#6 d
  | .rdSetupAdvance => readWord 0x0A#6
  | .wrSetupAdvance d => writeWord 0x0A#6 d
  | .rdSetupStatus => readWord 0x0B#6
  | .wrSetupStatus d => writeWord 0x0B#6 d
  | .rdInData => readWord 0x0C#6
  | .wrInData d => writeWord 0x0C#6 d
  | .rdInCtrl => readWord 0x0D#6
  | .wrInCtrl d => writeWord 0x0D#6 d
  | .rdInStatus => readWord 0x0E#6
  | .wrInStatus d => writeWord 0x0E#6 d
  | .rdOutData => readWord 0x0F#6
  | .wrOutData d => writeWord 0x0F#6 d
  | .rdOutCtrl => readWord 0x10#6
  | .wrOutCtrl d => writeWord 0x10#6 d
  | .rdOutStatus => readWord 0x11#6
  | .wrOutStatus d => writeWord 0x11#6 d
  | .rdUnmapped48 reg => readWord reg
  | .wrUnmapped48 reg d => writeWord reg d
  | .rdUnmapped50 reg => readWord reg
  | .wrUnmapped50 reg d => writeWord reg d
  | .rdUnmapped60 reg => readWord reg
  | .wrUnmapped60 reg d => writeWord reg d
  | .rdUnmapped80 reg => readWord reg
  | .wrUnmapped80 reg d => writeWord reg d

/-! ### The opcode table's rows (30 R103, R104) -/

/-- One row's `match` (here `value`) and `mask`, over the words of its format. -/
inductive Row where
  | pew (value mask : BitVec 24)
  | caw (value mask : BitVec 41)
  deriving DecidableEq, Repr

/-- The word is of the row's format and agrees with `value` on the bits of `mask`. -/
def Row.matchesWord : Row → InputWord → Bool
  | .pew value mask, .pew w => w &&& mask == value
  | .caw value mask, .caw w => w &&& mask == value
  | .pew _ _, .caw _ => false
  | .caw _ _, .pew _ => false

/-- The opcode-table row an instruction stands in. -/
def Instr.row : Instr → Row
  | .nop _ => .pew 0x000000#24 0xF00000#24
  | .start => .pew 0x100000#24 0xF00000#24
  | .tokenInvalidRsv0 _ _ => .pew 0x200000#24 0xFF0000#24
  | .tokenOut _ _ => .pew 0x210000#24 0xFF0000#24
  | .tokenInvalidAck _ _ => .pew 0x220000#24 0xFF0000#24
  | .tokenInvalidData0 _ _ => .pew 0x230000#24 0xFF0000#24
  | .tokenInvalidPing _ _ => .pew 0x240000#24 0xFF0000#24
  | .tokenSof _ _ => .pew 0x250000#24 0xFF0000#24
  | .tokenInvalidNyet _ _ => .pew 0x260000#24 0xFF0000#24
  | .tokenInvalidData2 _ _ => .pew 0x270000#24 0xFF0000#24
  | .tokenInvalidSplit _ _ => .pew 0x280000#24 0xFF0000#24
  | .tokenIn _ _ => .pew 0x290000#24 0xFF0000#24
  | .tokenInvalidNak _ _ => .pew 0x2A0000#24 0xFF0000#24
  | .tokenInvalidData1 _ _ => .pew 0x2B0000#24 0xFF0000#24
  | .tokenInvalidPreErr _ _ => .pew 0x2C0000#24 0xFF0000#24
  | .tokenSetup _ _ => .pew 0x2D0000#24 0xFF0000#24
  | .tokenInvalidStall _ _ => .pew 0x2E0000#24 0xFF0000#24
  | .tokenInvalidMdata _ _ => .pew 0x2F0000#24 0xFF0000#24
  | .rxb _ => .pew 0x300000#24 0xF00000#24
  | .txpop => .pew 0x400000#24 0xF00000#24
  | .dend => .pew 0x500000#24 0xF00000#24
  | .txnEnd _ => .pew 0x600000#24 0xF00000#24
  | .err => .pew 0x700000#24 0xF00000#24
  | .brst => .pew 0x800000#24 0xF00000#24
  | .dbg _ => .pew 0x900000#24 0xF00000#24
  | .reservedKindAB _ => .pew 0xA00000#24 0xE00000#24
  | .reservedKindCF _ => .pew 0xC00000#24 0xC00000#24
  | .rdAddress => .caw 0x00000000000#41 0x1FC00000000#41
  | .wrAddress _ => .caw 0x10000000000#41 0x1FC00000000#41
  | .rdEnableOut => .caw 0x00400000000#41 0x1FC00000000#41
  | .wrEnableOut _ => .caw 0x10400000000#41 0x1FC00000000#41
  | .rdEnableIn => .caw 0x00800000000#41 0x1FC00000000#41
  | .wrEnableIn _ => .caw 0x10800000000#41 0x1FC00000000#41
  | .rdStage => .caw 0x00C00000000#41 0x1FC00000000#41
  | .wrStage _ => .caw 0x10C00000000#41 0x1FC00000000#41
  | .rdErrorCount => .caw 0x01000000000#41 0x1FC00000000#41
  | .wrErrorCount _ => .caw 0x11000000000#41 0x1FC00000000#41
  | .rdInvalidStateCount => .caw 0x01400000000#41 0x1FC00000000#41
  | .wrInvalidStateCount _ => .caw 0x11400000000#41 0x1FC00000000#41
  | .rdTokenWaitCount => .caw 0x01800000000#41 0x1FC00000000#41
  | .wrTokenWaitCount _ => .caw 0x11800000000#41 0x1FC00000000#41
  | .rdEvPending => .caw 0x01C00000000#41 0x1FC00000000#41
  | .wrEvPending _ => .caw 0x11C00000000#41 0x1FC00000000#41
  | .rdEvEnable => .caw 0x02000000000#41 0x1FC00000000#41
  | .wrEvEnable _ => .caw 0x12000000000#41 0x1FC00000000#41
  | .rdSetupData => .caw 0x02400000000#41 0x1FC00000000#41
  | .wrSetupData _ => .caw 0x12400000000#41 0x1FC00000000#41
  | .rdSetupAdvance => .caw 0x02800000000#41 0x1FC00000000#41
  | .wrSetupAdvance _ => .caw 0x12800000000#41 0x1FC00000000#41
  | .rdSetupStatus => .caw 0x02C00000000#41 0x1FC00000000#41
  | .wrSetupStatus _ => .caw 0x12C00000000#41 0x1FC00000000#41
  | .rdInData => .caw 0x03000000000#41 0x1FC00000000#41
  | .wrInData _ => .caw 0x13000000000#41 0x1FC00000000#41
  | .rdInCtrl => .caw 0x03400000000#41 0x1FC00000000#41
  | .wrInCtrl _ => .caw 0x13400000000#41 0x1FC00000000#41
  | .rdInStatus => .caw 0x03800000000#41 0x1FC00000000#41
  | .wrInStatus _ => .caw 0x13800000000#41 0x1FC00000000#41
  | .rdOutData => .caw 0x03C00000000#41 0x1FC00000000#41
  | .wrOutData _ => .caw 0x13C00000000#41 0x1FC00000000#41
  | .rdOutCtrl => .caw 0x04000000000#41 0x1FC00000000#41
  | .wrOutCtrl _ => .caw 0x14000000000#41 0x1FC00000000#41
  | .rdOutStatus => .caw 0x04400000000#41 0x1FC00000000#41
  | .wrOutStatus _ => .caw 0x14400000000#41 0x1FC00000000#41
  | .rdUnmapped48 _ => .caw 0x04800000000#41 0x1F800000000#41
  | .wrUnmapped48 _ _ => .caw 0x14800000000#41 0x1F800000000#41
  | .rdUnmapped50 _ => .caw 0x05000000000#41 0x1F000000000#41
  | .wrUnmapped50 _ _ => .caw 0x15000000000#41 0x1F000000000#41
  | .rdUnmapped60 _ => .caw 0x06000000000#41 0x1E000000000#41
  | .wrUnmapped60 _ _ => .caw 0x16000000000#41 0x1E000000000#41
  | .rdUnmapped80 _ => .caw 0x08000000000#41 0x18000000000#41
  | .wrUnmapped80 _ _ => .caw 0x18000000000#41 0x18000000000#41

/-- The 27 PEW rows of spec/opcode_table.json. -/
def pewRows : List Row :=
  [ .pew 0x000000#24 0xF00000#24,
    .pew 0x100000#24 0xF00000#24,
    .pew 0x200000#24 0xFF0000#24,
    .pew 0x210000#24 0xFF0000#24,
    .pew 0x220000#24 0xFF0000#24,
    .pew 0x230000#24 0xFF0000#24,
    .pew 0x240000#24 0xFF0000#24,
    .pew 0x250000#24 0xFF0000#24,
    .pew 0x260000#24 0xFF0000#24,
    .pew 0x270000#24 0xFF0000#24,
    .pew 0x280000#24 0xFF0000#24,
    .pew 0x290000#24 0xFF0000#24,
    .pew 0x2A0000#24 0xFF0000#24,
    .pew 0x2B0000#24 0xFF0000#24,
    .pew 0x2C0000#24 0xFF0000#24,
    .pew 0x2D0000#24 0xFF0000#24,
    .pew 0x2E0000#24 0xFF0000#24,
    .pew 0x2F0000#24 0xFF0000#24,
    .pew 0x300000#24 0xF00000#24,
    .pew 0x400000#24 0xF00000#24,
    .pew 0x500000#24 0xF00000#24,
    .pew 0x600000#24 0xF00000#24,
    .pew 0x700000#24 0xF00000#24,
    .pew 0x800000#24 0xF00000#24,
    .pew 0x900000#24 0xF00000#24,
    .pew 0xA00000#24 0xE00000#24,
    .pew 0xC00000#24 0xC00000#24 ]

/-- The 22 CAW read rows. -/
def cawReadRows : List Row :=
  [ .caw 0x00000000000#41 0x1FC00000000#41,
    .caw 0x00400000000#41 0x1FC00000000#41,
    .caw 0x00800000000#41 0x1FC00000000#41,
    .caw 0x00C00000000#41 0x1FC00000000#41,
    .caw 0x01000000000#41 0x1FC00000000#41,
    .caw 0x01400000000#41 0x1FC00000000#41,
    .caw 0x01800000000#41 0x1FC00000000#41,
    .caw 0x01C00000000#41 0x1FC00000000#41,
    .caw 0x02000000000#41 0x1FC00000000#41,
    .caw 0x02400000000#41 0x1FC00000000#41,
    .caw 0x02800000000#41 0x1FC00000000#41,
    .caw 0x02C00000000#41 0x1FC00000000#41,
    .caw 0x03000000000#41 0x1FC00000000#41,
    .caw 0x03400000000#41 0x1FC00000000#41,
    .caw 0x03800000000#41 0x1FC00000000#41,
    .caw 0x03C00000000#41 0x1FC00000000#41,
    .caw 0x04000000000#41 0x1FC00000000#41,
    .caw 0x04400000000#41 0x1FC00000000#41,
    .caw 0x04800000000#41 0x1F800000000#41,
    .caw 0x05000000000#41 0x1F000000000#41,
    .caw 0x06000000000#41 0x1E000000000#41,
    .caw 0x08000000000#41 0x18000000000#41 ]

/-- The 22 CAW write rows. -/
def cawWriteRows : List Row :=
  [ .caw 0x10000000000#41 0x1FC00000000#41,
    .caw 0x10400000000#41 0x1FC00000000#41,
    .caw 0x10800000000#41 0x1FC00000000#41,
    .caw 0x10C00000000#41 0x1FC00000000#41,
    .caw 0x11000000000#41 0x1FC00000000#41,
    .caw 0x11400000000#41 0x1FC00000000#41,
    .caw 0x11800000000#41 0x1FC00000000#41,
    .caw 0x11C00000000#41 0x1FC00000000#41,
    .caw 0x12000000000#41 0x1FC00000000#41,
    .caw 0x12400000000#41 0x1FC00000000#41,
    .caw 0x12800000000#41 0x1FC00000000#41,
    .caw 0x12C00000000#41 0x1FC00000000#41,
    .caw 0x13000000000#41 0x1FC00000000#41,
    .caw 0x13400000000#41 0x1FC00000000#41,
    .caw 0x13800000000#41 0x1FC00000000#41,
    .caw 0x13C00000000#41 0x1FC00000000#41,
    .caw 0x14000000000#41 0x1FC00000000#41,
    .caw 0x14400000000#41 0x1FC00000000#41,
    .caw 0x14800000000#41 0x1F800000000#41,
    .caw 0x15000000000#41 0x1F000000000#41,
    .caw 0x16000000000#41 0x1E000000000#41,
    .caw 0x18000000000#41 0x18000000000#41 ]

/-- All 71 rows. -/
def opcodeRows : List Row := pewRows ++ cawReadRows ++ cawWriteRows

end Sys2Proof
end

