-- ==== Sys2Proof/Machine/State.lean ====
section
/-! DEFINITION. The state of the block (10 R20 to R38), the model's own fields beside it, its value after power-on
reset (70 R340), and the reasons a step can stop. -/

namespace Sys2Proof.Machine

open Sys2Proof.Config

/-- The transaction stage (10 R22). Codes 11 to 15 are never held, so they have no constructor (log entry 15). -/
inductive Stage where
  | idle
  | tokenCheck
  | setup
  | controlIn
  | controlOut
  | waitControlAckIn
  | waitControlAckOut
  /-- IN: a generic IN transaction -/
  | genericIn
  /-- OUT: a generic OUT transaction -/
  | genericOut
  | waitDone
  | debug
  deriving DecidableEq, Repr

/-- How the open transaction is routed to the handlers (10 R23). -/
inductive Route where
  | rNone
  | rWait
  | rSetup
  | rIn
  | rOut
  | rStatusIn
  | rStatusOut
  | rDebug
  deriving DecidableEq, Repr

/-- A data token's direction (00 R13): `DIR_OUT = 0`, `DIR_IN = 1`. -/
inductive Dir where
  | dirOut
  | dirIn
  deriving DecidableEq, Repr

/-- Why the machine stops with a fault: never. The block has no trap mechanism and no input word faults (60 R310),
so no constructor exists (safe: nothing is hidden behind a fault). -/
inductive Fault where
  deriving DecidableEq, Repr

/-- Why the model has no meaning for an input word. -/
inductive Refusal where
  /-- raised by an arm of exec whose instruction has no meaning yet (none at present); safe -/
  | notModelled (mnemonic : String)
  /-- `refuse(reserved_event_kind)` of 30 R97, raised by a PEW of KIND 0xA to 0xF; safe: the hardware never sees one -/
  | reservedEventKind
  deriving DecidableEq, Repr

/-- The state `S` of 10_state.md, and the model's own fields. -/
structure State where
  /-- MODEL: the parameters of 00 R10; no step changes them (log entry 6) -/
  cfg : Params
  /-- MODEL: the input words still to be applied, oldest first: the interleaving (log entry 1) -/
  inputs : List InputWord
  /-- MODEL: what the last step returned to the CPU (30 R100, log entry 3) -/
  readData : Option Word
  /-- MODEL: the index of the free values of the current step (log entries 4 and 5) -/
  drawIdx : Nat
  /-- S.stage (10 R22) -/
  stage : Stage
  /-- S.route (10 R23) -/
  route : Route
  /-- S.cur_ep (10 R25) -/
  curEp : EpNum
  /-- S.addr_reg, the register ADDRESS (10 R26) -/
  addrReg : DevAddr
  /-- S.addr_eff, the latched address (10 R26) -/
  addrEff : DevAddr
  /-- S.en_out: bit e is enable_bitmap[2e] (10 R27) -/
  enOut : EpVec
  /-- S.en_in: bit e is enable_bitmap[2e+1] (10 R27) -/
  enIn : EpVec
  /-- S.error_count, `CTR_W` bits (10 R28) -/
  errorCount : Word
  /-- S.invalid_state_count, `CTR_W` bits (10 R28) -/
  invalidStateCount : Word
  /-- S.token_wait_count, `CTR_W` bits (10 R28) -/
  tokenWaitCount : Word
  /-- S.debug_active (10 R29) -/
  debugActive : Bool
  /-- S.rst_pulse (10 R30) -/
  rstPulse : Bool
  /-- S.setup_buf[0..9] (10 R31) -/
  setupBuf : Vector Byte setupCap
  /-- S.setup_idx, 0..10 (10 R31) -/
  setupIdx : Fin 11
  /-- S.setup_len, 0..10 (10 R31) -/
  setupLen : Fin 11
  /-- S.setup_rd, 0..10 (10 R31) -/
  setupRd : Fin 11
  /-- S.setup_valid (10 R31) -/
  setupValid : Bool
  /-- S.setup_is_in (10 R31) -/
  setupIsIn : Bool
  /-- S.setup_len_nz (10 R31) -/
  setupLenNz : Bool
  /-- S.setup_ep (10 R31) -/
  setupEp : EpNum
  /-- S.in_q, oldest byte first (10 R33) -/
  inQ : List Byte
  /-- S.in_ep (10 R33) -/
  inEp : EpNum
  /-- S.in_queued (10 R33) -/
  inQueued : Bool
  /-- S.dtb, the data toggle vector (10 R34) -/
  dtb : EpVec
  /-- S.out_q, oldest byte first (10 R36) -/
  outQ : List Byte
  /-- S.out_rx, oldest byte first (10 R36) -/
  outRx : List Byte
  /-- S.out_ovf (10 R36) -/
  outOvf : Bool
  /-- S.out_en (10 R36) -/
  outEn : Bool
  /-- S.out_idle (10 R36) -/
  outIdle : Bool
  /-- S.out_ep (10 R36) -/
  outEp : EpNum
  /-- S.ev_pend (10 R38) -/
  evPend : EvBits
  /-- S.ev_en (10 R38) -/
  evEn : EvBits
  deriving DecidableEq, Repr

/-- The state after power-on reset (70 R340).
`setupBuf` is unspecified there and is all zeros here (DESIGN CHOICE, log entry 7); the model's own fields are those of
log entries 1, 3, 4 and 6; every other field is the value the rule gives. -/
def State.reset : State where
  cfg := Params.default
  inputs := []
  readData := none
  drawIdx := 0
  stage := .idle
  route := .rNone
  curEp := 0
  addrReg := 0
  addrEff := 0
  enOut := 0x0000
  enIn := 0x0000
  errorCount := 0
  invalidStateCount := 0
  tokenWaitCount := 0
  debugActive := false
  rstPulse := false
  setupBuf := Vector.replicate setupCap 0
  setupIdx := 0
  setupLen := 0
  setupRd := 0
  setupValid := false
  setupIsIn := false
  setupLenNz := false
  setupEp := 0
  inQ := []
  inEp := 0
  inQueued := false
  dtb := 0xFFFF
  outQ := []
  outRx := []
  outOvf := false
  outEn := false
  outIdle := true
  outEp := 0
  evPend := 0
  evEn := 0

end Sys2Proof.Machine
end

