-- ==== Sys2Proof/Machine/Operands.lean ====
section
/-! DEFINITION. Operand assembly: the fields of a CPU access word's data (10 R40, 30 R101, R102), the bit operations on
endpoint vectors, and the byte order of a bus adapter (20 R72). Every field is unsigned (00 R11). -/

namespace Sys2Proof.Machine

/-- `zext_32(v)` (00 R12). -/
def zext32 {n : Nat} (v : BitVec n) : Word := v.setWidth 32

/-- ADDRESS.ADDR, `D[6:0]` (10 R40). -/
def fieldAddr (d : Word) : DevAddr := d.extractLsb' 0 7

/-- ENABLE_OUT and ENABLE_IN, `D[15:0]` (10 R40). -/
def fieldEnables (d : Word) : EpVec := d.extractLsb' 0 16

/-- EV_PENDING and EV_ENABLE, `D[2:0]` (10 R40). -/
def fieldEvents (d : Word) : EvBits := d.extractLsb' 0 3

/-- IN_DATA, `D[7:0]` (10 R40). -/
def fieldByte (d : Word) : Byte := d.extractLsb' 0 8

/-- IN_CTRL.EPNO, `D[3:0]` (10 R40). -/
def fieldEpno (d : Word) : EpNum := d.extractLsb' 0 4

/-- IN_CTRL.RESET, `D[4]` (10 R40). -/
def fieldReset (d : Word) : Bool := d.getLsbD 4

/-- OUT_CTRL.ADVANCE, `D[0]` (10 R40). -/
def fieldAdvance (d : Word) : Bool := d.getLsbD 0

/-- OUT_CTRL.ENABLE, `D[1]` (10 R40). -/
def fieldEnable (d : Word) : Bool := d.getLsbD 1

/-- The bit of an endpoint vector for endpoint `e`. -/
def epBit (v : EpVec) (e : EpNum) : Bool := v.getLsbD e.toNat

/-- `v[e] <- b` (00 R12). -/
def setEpBit (v : EpVec) (e : EpNum) (b : Bool) : EpVec :=
  if b then v ||| 1#16 <<< e.toNat else v &&& ~~~(1#16 <<< e.toNat)

/-- The endpoint/direction key `k = 2*e + d` (00 R14). -/
def epKey (e : EpNum) : Dir → Nat
  | .dirOut => 2 * e.toNat
  | .dirIn => 2 * e.toNat + 1

/-- Byte `j` of a register word on a byte-addressed bus: bits `[8j+7:8j]`, little-endian (20 R72). -/
def busByte (w : Word) (j : Fin 4) : Byte := w.extractLsb' (8 * j.val) 8

/-- The bus address of the register at byte offset `off` (20 R79, log entry 18). -/
def busAddress (off : BitVec 8) : Nat := Config.csrBase + off.toNat

end Sys2Proof.Machine
end

