-- ==== Sys2Proof/Machine/Flags.lean ====
section
/-! DEFINITION. Everything derived from the state that a rule tests or a register shows: the stage code, the enable
bitmap, the handlers' responses, the status flags and words, the interrupt line (10 R22, R27, R32, R35 to R40). -/

namespace Sys2Proof.Machine

/-- The code of a stage, `stage_number` (10 R22). -/
def Stage.code : Stage → BitVec 4
  | .idle => 0
  | .tokenCheck => 1
  | .setup => 2
  | .controlIn => 3
  | .controlOut => 4
  | .waitControlAckIn => 5
  | .waitControlAckOut => 6
  | .genericIn => 7
  | .genericOut => 8
  | .waitDone => 9
  | .debug => 10

/-- The four control resting stages (00 R16, 10 R24). -/
def Stage.isControl : Stage → Bool
  | .controlIn | .controlOut | .waitControlAckIn | .waitControlAckOut => true
  | .idle | .tokenCheck | .setup | .genericIn | .genericOut | .waitDone | .debug => false

/-- The resting stages (00 R16): in these the engine waits for a token. -/
def Stage.isResting : Stage → Bool
  | .idle => true
  | stage => stage.isControl

/-- `enable_bitmap[2e + d]` (10 R27). -/
def enabled (s : State) (e : EpNum) : Dir → Bool
  | .dirOut => epBit s.enOut e
  | .dirIn => epBit s.enIn e

/-- The 32-bit enable bitmap: bit `2e` is `en_out[e]`, bit `2e+1` is `en_in[e]` (10 R27). -/
def enableBitmap (s : State) : BitVec 32 :=
  BitVec.ofFnLE fun k : Fin 32 =>
    if k.val % 2 = 0 then s.enOut.getLsbD (k.val / 2) else s.enIn.getLsbD (k.val / 2)

/-- `should_stall(S, e, d)` (40 R135), evaluated anew from the current enables each time. -/
def shouldStall (s : State) (e : EpNum) (d : Dir) : Bool := !enabled s e d

/-- The byte SETUP_DATA shows, if the record has an unread one (10 R32, 42 R196). -/
def setupHead (s : State) : Option Byte :=
  if h : s.setupValid = true ∧ s.setupRd.val < s.setupLen.val then
    some (s.setupBuf[s.setupRd.val]'(by have := s.setupLen.isLt; simp only [Config.setupCap]; omega))
  else none

/-- `setup_have(S)` (10 R32). -/
def setupHave (s : State) : Bool := s.setupValid && decide (s.setupRd.val < s.setupLen.val)

/-- `in_resp(S, e)` (10 R35). -/
def inResp (s : State) (e : EpNum) : Bool := s.inQueued && s.inEp == e

/-- `out_resp(S)` (10 R37). -/
def outResp (s : State) : Bool :=
  s.outEn && decide (s.outQ.length + s.outRx.length > 0) && !s.outOvf

/-- IN_STATUS.HAVE (10 R39). -/
def inHave (s : State) : Bool := decide (s.inQ.length > 0)

/-- IN_STATUS.IDLE (10 R39). -/
def inIdle (s : State) : Bool := !s.inQueued

/-- OUT_STATUS.HAVE (10 R39). -/
def outHave (s : State) : Bool := decide (s.outQ.length > 0)

/-- `irq(S)` (10 R38, 60 R314). -/
def irq (s : State) : Bool := s.evPend &&& s.evEn != 0

/-- The SETUP event's bit (60 R311). -/
def evSetup : EvBits := 0b001

/-- The IN event's bit (60 R311). -/
def evIn : EvBits := 0b010

/-- The OUT event's bit (60 R311). -/
def evOut : EvBits := 0b100

/-- SETUP_STATUS: HAVE, EPNO, PEND (42 R198). -/
def setupStatusWord (s : State) : Word :=
  zext32 (BitVec.ofBool (s.evPend.getLsbD 0) ++ s.setupEp ++ 0#3 ++ BitVec.ofBool (setupHave s))

/-- IN_STATUS: HAVE, IDLE, PEND (43 R222). -/
def inStatusWord (s : State) : Word :=
  zext32 (BitVec.ofBool (s.evPend.getLsbD 1) ++ 0#6 ++ BitVec.ofBool (inIdle s) ++ BitVec.ofBool (inHave s))

/-- OUT_STATUS: HAVE, IDLE, EPNO, PEND (44 R252). -/
def outStatusWord (s : State) : Word :=
  zext32 (BitVec.ofBool (s.evPend.getLsbD 2) ++ s.outEp ++ 0#2 ++ BitVec.ofBool s.outIdle
    ++ BitVec.ofBool (outHave s))

end Sys2Proof.Machine
end

