-- ==== Sys2Proof/Machine/Outputs.lean ====
section
/-! DEFINITION. The engine's outputs to the transfer core, a function of the state after every step (40 R140), and the
handshake the core makes of them (40 R141). -/

namespace Sys2Proof.Machine

open Sys2Proof.Config

/-- The record `Outputs(S)` (40 R140). -/
structure Outputs where
  arm : Bool
  stall : Bool
  dtb : Bool
  txHave : Bool
  txByte : Byte
  rxSink : Bool
  reset : Bool
  address : DevAddr
  irq : Bool
  deriving DecidableEq, Repr

/-- `stall`. The policy of 40 R135 applies to the routes R_IN and R_OUT alone. -/
def stallSignal (s : State) : Bool :=
  match s.route with
  | .rIn => shouldStall s s.curEp .dirIn
  | .rOut => shouldStall s s.curEp .dirOut
  | .rDebug => bridgeStall s.drawIdx
  | .rNone | .rWait | .rSetup | .rStatusIn | .rStatusOut => false

/-- `arm`. -/
def armSignal (s : State) : Bool :=
  match s.route with
  | .rSetup | .rStatusIn | .rStatusOut => true
  | .rIn => !stallSignal s && inResp s s.curEp
  | .rOut => !stallSignal s && outResp s
  | .rDebug => bridgeArm s.drawIdx
  | .rNone | .rWait => false

/-- `dtb`, the toggle bit (43 R210). -/
def dtbSignal (s : State) : Bool :=
  match s.route with
  | .rIn | .rStatusIn => epBit s.dtb s.curEp
  | .rDebug => bridgeDtb s.drawIdx
  | .rNone | .rWait | .rSetup | .rOut | .rStatusOut => false

/-- `tx_have`. In R_STATUS_IN the payload is the queue only if endpoint 0 is armed (41 R170). -/
def txHaveSignal (s : State) : Bool :=
  match s.route with
  | .rIn => armSignal s && inHave s
  | .rStatusIn => inResp s 0 && inHave s
  | .rDebug => bridgeTxHave s.drawIdx
  | .rNone | .rWait | .rSetup | .rOut | .rStatusOut => false

/-- `tx_byte`: `head(S.in_q)` while `tx_have`, else 0. -/
def txByteSignal (s : State) : Byte :=
  if s.route = .rDebug then bridgeTxByte s.drawIdx
  else if txHaveSignal s then s.inQ.headD 0 else 0

/-- `rx_sink`. -/
def rxSinkSignal (s : State) : Bool :=
  match s.route with
  | .rSetup | .rOut | .rStatusOut => true
  | .rNone | .rWait | .rIn | .rStatusIn | .rDebug => false

/-- `Outputs(S)` (40 R140). In route R_DEBUG the bridge drives `arm`, `stall`, `dtb`, `tx_have` and `tx_byte`: free
values of the current step (log entry 5). -/
def outputs (s : State) : Outputs where
  arm := armSignal s
  stall := stallSignal s
  dtb := dtbSignal s
  txHave := txHaveSignal s
  txByte := txByteSignal s
  rxSink := rxSinkSignal s
  reset := s.rstPulse
  address := s.addrEff
  irq := irq s

/-- What the transfer core answers (40 R141). -/
inductive Handshake where
  | stall
  | ack
  | nak
  | data0
  | data1
  deriving DecidableEq, Repr

/-- The answer a core that keeps its contract gives when it samples the outputs in this state: none where it reads
nothing, and none in R_DEBUG, where the bridge decides (40 R141). -/
def handshake (s : State) : Option Handshake :=
  match s.route with
  | .rIn | .rStatusIn =>
    some (if stallSignal s then .stall
      else if armSignal s then (if dtbSignal s then .data1 else .data0) else .nak)
  | .rSetup | .rOut | .rStatusOut =>
    some (if stallSignal s then .stall else if armSignal s then .ack else .nak)
  | .rNone | .rWait | .rDebug => none

end Sys2Proof.Machine
end

