-- ==== Sys2Proof/Machine/InHandler.lean ====
section
/-! DEFINITION. The In Handler's procedures and the data toggle (43 R210 to R214, R220, R221). -/

namespace Sys2Proof.Machine

/-- InAdvance: the byte just transmitted is popped, if one was offered (43 R212). -/
def inAdvance (s : State) : State :=
  if txHaveSignal s then { s with inQ := s.inQ.tail } else s

/-- InEnd (43 R213 with commit, R214 without): only a commit on the armed endpoint has an effect. -/
def inEnd (s : State) (commit : Bool) : State :=
  if commit && inResp s s.curEp then
    { s with
      dtb := setEpBit s.dtb s.curEp (!epBit s.dtb s.curEp)
      inQueued := false
      evPend := s.evPend ||| evIn }
  else s

/-- The push of IN_DATA: dropped when the queue is full (43 R220). -/
def inPush (s : State) (b : Byte) : State :=
  if s.inQ.length < Config.inCap then { s with inQ := s.inQ ++ [b] } else s

/-- The arm of IN_CTRL: ignored while a transfer is queued (43 R215, R221). -/
def inArm (s : State) (e : EpNum) : State :=
  if s.inQueued then s else { s with inEp := e, inQueued := true }

/-- The flush of IN_CTRL.RESET (43 R221). -/
def inFlush (s : State) : State := { s with inQ := [], inQueued := false }

end Sys2Proof.Machine
end

