-- ==== Sys2Proof/Machine/OutHandler.lean ====
section
/-! DEFINITION. The Out Handler's procedures (44 R240 to R243, R251). -/

namespace Sys2Proof.Machine

/-- OutReceive: the byte is staged, or lost when committed and open bytes fill the queue (44 R240, R241). -/
def outReceive (s : State) (b : Byte) : State :=
  if s.outQ.length + s.outRx.length < Config.outCap then
    { s with outRx := s.outRx ++ [b], outIdle := false }
  else { s with outOvf := true, outIdle := false }

/-- OutClose (44 R242). -/
def outClose (s : State) : State := { s with outRx := [], outOvf := false, outIdle := true }

/-- OutEnd (44 R242 with commit, R243 without). -/
def outEnd (s : State) (commit : Bool) : State :=
  if commit then
    outClose { s with
      outQ := s.outQ ++ s.outRx
      outEn := false
      outEp := s.curEp
      evPend := s.evPend ||| evOut }
  else outClose s

/-- The write of OUT_CTRL: ADVANCE pops a byte if there is one, and every write writes the enable (44 R251). -/
def outControl (s : State) (advance enable : Bool) : State :=
  { s with outQ := if advance then s.outQ.tail else s.outQ, outEn := enable }

end Sys2Proof.Machine
end

