-- ==== Sys2Proof/Machine/SetupHandler.lean ====
section
/-! DEFINITION. The Setup Handler's procedures (42 R190 to R195) and the stage after a SETUP (41 R167). -/

namespace Sys2Proof.Machine

/-- SetupStart: any prior record is discarded (42 R190). -/
def setupStart (s : State) : State :=
  { s with setupValid := false, setupRd := 0, setupLen := 0, setupIdx := 0, setupIsIn := false, setupLenNz := false }

/-- SetupReceive: the byte is stored if it is one of the first ten, and classified (42 R192). -/
def setupReceive (s : State) (b : Byte) : State :=
  if h : s.setupIdx.val < Config.setupCap then
    { s with
      setupBuf := s.setupBuf.set s.setupIdx.val b h
      setupIsIn := if s.setupIdx.val = 0 then b.getLsbD 7 else s.setupIsIn
      setupLenNz := if (s.setupIdx.val = 6 ∨ s.setupIdx.val = 7) ∧ b ≠ 0 then true else s.setupLenNz
      setupIdx := ⟨s.setupIdx.val + 1, by simp only [Config.setupCap] at h; omega⟩ }
  else s

/-- SetupNext: the stage after a committed SETUP (41 R167, R168). -/
def setupNext (s : State) : Stage :=
  if s.curEp ≠ 0 then .idle
  else if s.setupLenNz then (if s.setupIsIn then .controlIn else .controlOut)
  else (if s.setupIsIn then .waitControlAckOut else .waitControlAckIn)

/-- SetupEnd (42 R194 with commit, R195 without). -/
def setupEnd (s : State) (commit : Bool) : State :=
  if commit then
    { s with
      setupValid := true
      setupLen := s.setupIdx
      setupRd := 0
      setupEp := s.curEp
      dtb := setEpBit s.dtb s.curEp true
      evPend := s.evPend ||| evSetup
      stage := setupNext s }
  else { s with stage := .idle }

/-- The pop of SETUP_ADVANCE: one byte of the record, if one is unread (42 R197). -/
def setupAdvance (s : State) : State :=
  if h : s.setupValid = true ∧ s.setupRd.val < s.setupLen.val then
    { s with setupRd := ⟨s.setupRd.val + 1, by have := s.setupLen.isLt; omega⟩ }
  else s

end Sys2Proof.Machine
end

