-- ==== Sys2Proof/Machine/Ops.lean ====
section
/-! DEFINITION. The shared operations: the saturating count, the frame of a protocol step, opening, ending and
abandoning a transaction, and the forms of a CPU access. -/

namespace Sys2Proof.Machine

/-- The outcome of a step of this machine. -/
abbrev Result := Host.Outcome State Fault Refusal

/-- `sat_inc(c)` (00 R12): counters saturate at `2^CTR_W - 1` (10 R28). -/
def satInc (p : Config.Params) (c : Word) : Word := if c.toNat < p.ctrMax then c + 1 else c

/-- The start of every protocol step: the reset output falls, and in IDLE the address is latched and the setup byte
counter reset (40 R120). -/
def protocolFrame (s : State) : State :=
  if s.stage = .idle then { s with rstPulse := false, addrEff := s.addrReg, setupIdx := 0 }
  else { s with rstPulse := false }

/-- A protocol step: the frame, then the event (40 R120). -/
def protocolStep (event : State → State) (s : State) : Result := .next (event (protocolFrame s))

/-- A CPU read returns its data and changes nothing of the block (20 R77). -/
def cpuRead (d : Word) (s : State) : Result := .next { s with readData := some d }

/-- A CPU write changes the state and returns nothing (30 R100). -/
def cpuWrite (write : State → State) (s : State) : Result := .next (write s)

/-- A write that has no effect: of a read-only register (45 R284) or of an unmapped offset (R286). -/
def cpuIgnore (s : State) : Result := .next s

/-- A read of a data register: the head byte, or a free byte when the FIFO is empty (42 R196, 44 R250, 00 R12
`draw8()`; log entry 4). -/
def dataRead (head : Option Byte) (s : State) : Word :=
  match head with
  | some b => zext32 b
  | none => zext32 (Config.draw8 s.drawIdx)

/-- A reserved KIND is refused by name (30 R97). -/
def refuseReserved : Result := .refused .reservedEventKind

/-- The stage is left if it is `stage`, for IDLE. -/
def leaveStage (stage : Stage) (s : State) : State := if s.stage = stage then { s with stage := .idle } else s

/-- The engine's part of EndTxn by route, before the route is cleared (40 R122). -/
def endRoute (s : State) (commit : Bool) : State :=
  match s.route with
  | .rNone => s
  | .rWait => leaveStage .tokenCheck s
  | .rSetup => setupEnd s commit
  | .rIn => leaveStage .genericIn (inEnd s commit)
  | .rOut => leaveStage .genericOut (outEnd s commit)
  | .rStatusIn => { inEnd s commit with stage := .idle }
  | .rStatusOut => { s with stage := .idle }
  | .rDebug => { s with stage := .idle }

/-- EndTxn (40 R122). -/
def endTxn (s : State) (commit : Bool) : State := { endRoute s commit with route := .rNone }

/-- The open transaction, if any, ends without commit (40 R121). -/
def abandonOpen (s : State) : State := if s.route = .rNone then s else endTxn s false

/-- StartTxn (40 R121). -/
def startTxn (s : State) : State :=
  let s := abandonOpen s
  { s with route := .rWait, stage := if s.stage = .idle then .tokenCheck else s.stage }

/-- Abandon (60 R300): what takes the place of taking an exception (60 R316). Nothing is saved and control goes
nowhere: the open transaction ends uncommitted and the stage is IDLE. -/
def abandon (s : State) : State := { endTxn s false with stage := .idle }

/-- The step's own part: the word is taken off the inputs, no data is returned yet, and the free values are new ones
(log entries 1, 3 and 4). -/
def consume (rest : List InputWord) (s : State) : State :=
  { s with inputs := rest, readData := none, drawIdx := s.drawIdx + 1 }

end Sys2Proof.Machine
end

