-- ==== Sys2Proof/Machine/Abnormal.lean ====
section
/-! DEFINITION. The abnormal protocol events ERR and BRST (60 R300, R301), and the reserved kinds (30 R97). -/

namespace Sys2Proof.Machine

/-- Error: the reset output is raised for this step's outputs, the error counted, the transaction abandoned
(60 R300). -/
def errorEvent (s : State) : State :=
  abandon { s with rstPulse := true, errorCount := satInc s.cfg s.errorCount }

/-- BusReset: the transaction is abandoned and both copies of the address are cleared (60 R301). -/
def busResetEvent (s : State) : State := { abandon s with addrReg := 0, addrEff := 0 }

/-- ERR (60 R300). -/
def execErr (s : State) : Result := protocolStep errorEvent s

/-- BRST (60 R301). -/
def execBrst (s : State) : Result := protocolStep busResetEvent s

/-- PEW KIND 0xA to 0xB: refused by name (30 R97). -/
def execReservedKindAB (_kind : BitVec 4) (_s : State) : Result := refuseReserved

/-- PEW KIND 0xC to 0xF: refused by name (30 R97). -/
def execReservedKindCF (_kind : BitVec 4) (_s : State) : Result := refuseReserved

end Sys2Proof.Machine
end

