-- ==== Sys2Proof/Machine/GlobalRegs.lean ====
section
/-! DEFINITION. CPU accesses to the global and event registers (45 R270 to R284). -/

namespace Sys2Proof.Machine

/-- RD ADDRESS: the register, not the latched copy (45 R270). -/
def execRdAddress (s : State) : Result := cpuRead (zext32 s.addrReg) s

/-- WR ADDRESS (45 R271). -/
def execWrAddress (d : Word) (s : State) : Result := cpuWrite (fun s => { s with addrReg := fieldAddr d }) s

/-- RD ENABLE_OUT (45 R272). -/
def execRdEnableOut (s : State) : Result := cpuRead (zext32 s.enOut) s

/-- WR ENABLE_OUT (45 R273). -/
def execWrEnableOut (d : Word) (s : State) : Result := cpuWrite (fun s => { s with enOut := fieldEnables d }) s

/-- RD ENABLE_IN (45 R274). -/
def execRdEnableIn (s : State) : Result := cpuRead (zext32 s.enIn) s

/-- WR ENABLE_IN (45 R275). -/
def execWrEnableIn (d : Word) (s : State) : Result := cpuWrite (fun s => { s with enIn := fieldEnables d }) s

/-- RD STAGE (45 R276). -/
def execRdStage (s : State) : Result := cpuRead (zext32 s.stage.code) s

/-- WR STAGE: read-only, ignored (45 R284). -/
def execWrStage (_d : Word) (s : State) : Result := cpuIgnore s

/-- RD ERROR_COUNT (45 R277). -/
def execRdErrorCount (s : State) : Result := cpuRead s.errorCount s

/-- WR ERROR_COUNT: read-only, ignored (45 R284). -/
def execWrErrorCount (_d : Word) (s : State) : Result := cpuIgnore s

/-- RD INVALID_STATE_COUNT (45 R278). -/
def execRdInvalidStateCount (s : State) : Result := cpuRead s.invalidStateCount s

/-- WR INVALID_STATE_COUNT: read-only, ignored (45 R284). -/
def execWrInvalidStateCount (_d : Word) (s : State) : Result := cpuIgnore s

/-- RD TOKEN_WAIT_COUNT (45 R279). -/
def execRdTokenWaitCount (s : State) : Result := cpuRead s.tokenWaitCount s

/-- WR TOKEN_WAIT_COUNT: read-only, ignored (45 R284). -/
def execWrTokenWaitCount (_d : Word) (s : State) : Result := cpuIgnore s

/-- RD EV_PENDING (45 R280). -/
def execRdEvPending (s : State) : Result := cpuRead (zext32 s.evPend) s

/-- WR EV_PENDING: write 1 to clear (45 R281). -/
def execWrEvPending (d : Word) (s : State) : Result :=
  cpuWrite (fun s => { s with evPend := s.evPend &&& ~~~fieldEvents d }) s

/-- RD EV_ENABLE (45 R282). -/
def execRdEvEnable (s : State) : Result := cpuRead (zext32 s.evEn) s

/-- WR EV_ENABLE (45 R283). -/
def execWrEvEnable (d : Word) (s : State) : Result := cpuWrite (fun s => { s with evEn := fieldEvents d }) s

end Sys2Proof.Machine
end

