-- ==== Sys2Proof/Machine/HandlerRegs.lean ====
section
/-! DEFINITION. CPU accesses to the handlers' data, control and status registers (42 R196 to R198, 43 R220 to R222,
44 R250 to R252, 45 R284, R285). -/

namespace Sys2Proof.Machine

/-! ### Setup Handler -/

/-- RD SETUP_DATA (42 R196). -/
def execRdSetupData (s : State) : Result := cpuRead (dataRead (setupHead s) s) s

/-- WR SETUP_DATA: read-only, ignored (45 R284). -/
def execWrSetupData (_d : Word) (s : State) : Result := cpuIgnore s

/-- RD SETUP_ADVANCE: write-only, reads 0 (45 R285). -/
def execRdSetupAdvance (s : State) : Result := cpuRead 0 s

/-- WR SETUP_ADVANCE: pops whatever D is (42 R197). -/
def execWrSetupAdvance (_d : Word) (s : State) : Result := cpuWrite setupAdvance s

/-- RD SETUP_STATUS (42 R198). -/
def execRdSetupStatus (s : State) : Result := cpuRead (setupStatusWord s) s

/-- WR SETUP_STATUS: read-only, ignored (45 R284). -/
def execWrSetupStatus (_d : Word) (s : State) : Result := cpuIgnore s

/-! ### In Handler -/

/-- RD IN_DATA: write-only, reads 0 (45 R285). -/
def execRdInData (s : State) : Result := cpuRead 0 s

/-- WR IN_DATA (43 R220). -/
def execWrInData (d : Word) (s : State) : Result := cpuWrite (fun s => inPush s (fieldByte d)) s

/-- RD IN_CTRL: write-only, reads 0 (45 R285). -/
def execRdInCtrl (s : State) : Result := cpuRead 0 s

/-- WR IN_CTRL: RESET takes precedence, and then EPNO is ignored (43 R221). -/
def execWrInCtrl (d : Word) (s : State) : Result :=
  cpuWrite (fun s => if fieldReset d then inFlush s else inArm s (fieldEpno d)) s

/-- RD IN_STATUS (43 R222). -/
def execRdInStatus (s : State) : Result := cpuRead (inStatusWord s) s

/-- WR IN_STATUS: read-only, ignored (45 R284). -/
def execWrInStatus (_d : Word) (s : State) : Result := cpuIgnore s

/-! ### Out Handler -/

/-- RD OUT_DATA (44 R250). -/
def execRdOutData (s : State) : Result := cpuRead (dataRead s.outQ.head? s) s

/-- WR OUT_DATA: read-only, ignored (45 R284). -/
def execWrOutData (_d : Word) (s : State) : Result := cpuIgnore s

/-- RD OUT_CTRL: write-only, reads 0 (45 R285). -/
def execRdOutCtrl (s : State) : Result := cpuRead 0 s

/-- WR OUT_CTRL (44 R251). -/
def execWrOutCtrl (d : Word) (s : State) : Result :=
  cpuWrite (fun s => outControl s (fieldAdvance d) (fieldEnable d)) s

/-- RD OUT_STATUS (44 R252). -/
def execRdOutStatus (s : State) : Result := cpuRead (outStatusWord s) s

/-- WR OUT_STATUS: read-only, ignored (45 R284). -/
def execWrOutStatus (_d : Word) (s : State) : Result := cpuIgnore s

end Sys2Proof.Machine
end

