-- ==== Sys2Proof/Machine/Control.lean ====
section
/-! DEFINITION. The control-transfer sequencer: routing a data token (41 R160) and the debug stage (41 R172, R173). -/

namespace Sys2Proof.Machine

/-- The generic route of a direction. -/
def genericRoute : Dir → Route
  | .dirIn => .rIn
  | .dirOut => .rOut

/-- RouteData (41 R160). Its last arm, endpoint 0 in a stage that 10 R24 excludes while a token is awaited, has no case
in the rule: nothing changes (DESIGN CHOICE, log entry 9). -/
def routeData (s : State) (d : Dir) : State :=
  if s.stage = .tokenCheck then
    match d with
    | .dirIn => { s with route := .rIn, stage := .genericIn }
    | .dirOut => { s with route := .rOut, stage := .genericOut }
  else if s.curEp ≠ 0 then { s with route := genericRoute d }
  else
    match s.stage, d with
    | .controlIn, .dirIn => { s with route := .rIn }
    | .controlIn, .dirOut => { s with route := .rStatusOut, stage := .waitDone }
    | .controlOut, .dirOut => { s with route := .rOut }
    | .controlOut, .dirIn => { s with route := .rStatusIn }
    | .waitControlAckIn, .dirIn => { s with route := .rStatusIn }
    | .waitControlAckIn, .dirOut => { s with route := .rOut }
    | .waitControlAckOut, .dirOut => { s with route := .rStatusOut }
    | .waitControlAckOut, .dirIn => { s with route := .rIn }
    | .idle, _ | .tokenCheck, _ | .setup, _ | .genericIn, _ | .genericOut, _ | .waitDone, _ | .debug, _ => s

/-- DebugEnter (41 R173). -/
def debugEnter (s : State) : State := { s with curEp := 0, route := .rDebug, stage := .debug }

/-- Whether the debug bridge takes a token on this endpoint (40 R125). -/
def debugIntercepts (s : State) (e : EpNum) : Bool := s.cfg.debugPresent && s.debugActive && e == 0

/-- The DBG event (41 R172). -/
def debugEvent (a : Bool) (s : State) : State :=
  if s.cfg.debugPresent then
    if !a ∧ s.route = .rDebug then { s with debugActive := a, route := .rNone, stage := .idle }
    else { s with debugActive := a }
  else s

/-- DBG (41 R172). -/
def execDbg (a : Bool) (s : State) : Result := protocolStep (debugEvent a) s

end Sys2Proof.Machine
end

