-- ==== Sys2Proof/Machine/Protocol.lean ====
section
/-! DEFINITION. The protocol events NOP, START, RXB, TXPOP, DEND and END (40 R123, R124, R131 to R134). -/

namespace Sys2Proof.Machine

/-- NOP: while a token is awaited, an idle bus gives up and a busy one is counted (40 R123). -/
def nopEvent (i : Bool) (s : State) : State :=
  if s.route = .rWait then
    if i then leaveStage .tokenCheck { s with route := .rNone }
    else { s with tokenWaitCount := satInc s.cfg s.tokenWaitCount }
  else s

/-- RxByte, by route (40 R131); a status payload is discarded and a stray byte ignored. -/
def rxByteEvent (b : Byte) (s : State) : State :=
  match s.route with
  | .rSetup => setupReceive s b
  | .rOut => outReceive s b
  | .rStatusOut | .rDebug | .rNone | .rWait | .rIn | .rStatusIn => s

/-- TxPop, by route (40 R132). -/
def txPopEvent (s : State) : State :=
  match s.route with
  | .rIn | .rStatusIn => inAdvance s
  | .rNone | .rWait | .rSetup | .rOut | .rStatusOut | .rDebug => s

/-- NOP (40 R123). -/
def execNop (i : Bool) (s : State) : Result := protocolStep (nopEvent i) s

/-- START (40 R124). -/
def execStart (s : State) : Result := protocolStep startTxn s

/-- RXB (40 R131). -/
def execRxb (b : Byte) (s : State) : Result := protocolStep (rxByteEvent b) s

/-- TXPOP (40 R132). -/
def execTxpop (s : State) : Result := protocolStep txPopEvent s

/-- DEND: no state changes beyond the frame (40 R133). -/
def execDend (s : State) : Result := protocolStep id s

/-- END (40 R134). -/
def execTxnEnd (c : Bool) (s : State) : Result := protocolStep (fun s => endTxn s c) s

end Sys2Proof.Machine
end

