-- ==== Sys2Proof/Machine/Token.lean ====
section
/-! DEFINITION. The TOKEN events, one for each PID (40 R125 to R130). -/

namespace Sys2Proof.Machine

/-- The start of every TOKEN: one that no START announced opens its own transaction (40 R125). -/
def tokenPrelude (s : State) : State := if s.route = .rWait then s else startTxn s

/-- A token that is not acted on ends the wait; TOKEN_CHECK returns to IDLE and a control stage is kept (40 R127,
R128). -/
def tokenIgnored (s : State) : State := leaveStage .tokenCheck { s with route := .rNone }

/-- A PID that is no token (40 R126). -/
def tokenInvalid (s : State) : State :=
  { tokenPrelude s with
    invalidStateCount := satInc s.cfg (tokenPrelude s).invalidStateCount
    route := .rNone
    stage := .idle }

/-- A SOF (40 R127): it opens no transaction, and its ADDR and EP are unused. -/
def tokenSof (s : State) : State := tokenIgnored (tokenPrelude s)

/-- A SETUP, IN or OUT token: filtered by the latched address (40 R128), then the debug intercept (41 R173), then its
own routing. The order of the tests is normative (40 R125). -/
def addressedToken (accept : EpNum → State → State) (addr : DevAddr) (ep : EpNum) (s : State) : State :=
  let s := tokenPrelude s
  if addr ≠ s.addrEff then tokenIgnored s
  else if debugIntercepts s ep then debugEnter s
  else accept ep s

/-- TokenSetup (40 R129). -/
def tokenSetup (ep : EpNum) (s : State) : State :=
  setupStart { s with curEp := ep, route := .rSetup, stage := .setup }

/-- TokenData (40 R130). -/
def tokenData (d : Dir) (ep : EpNum) (s : State) : State := routeData { s with curEp := ep } d

/-- TOKEN with PID 0x0, no token (40 R126). -/
def execTokenInvalidRsv0 (_addr : DevAddr) (_ep : EpNum) (s : State) : Result := protocolStep tokenInvalid s

/-- TOKEN OUT (40 R130). -/
def execTokenOut (addr : DevAddr) (ep : EpNum) (s : State) : Result :=
  protocolStep (addressedToken (tokenData .dirOut) addr ep) s

/-- TOKEN with PID 0x2, no token (40 R126). -/
def execTokenInvalidAck (_addr : DevAddr) (_ep : EpNum) (s : State) : Result := protocolStep tokenInvalid s

/-- TOKEN with PID 0x3, no token (40 R126). -/
def execTokenInvalidData0 (_addr : DevAddr) (_ep : EpNum) (s : State) : Result := protocolStep tokenInvalid s

/-- TOKEN with PID 0x4, no token (40 R126). -/
def execTokenInvalidPing (_addr : DevAddr) (_ep : EpNum) (s : State) : Result := protocolStep tokenInvalid s

/-- TOKEN SOF (40 R127). -/
def execTokenSof (_addr : DevAddr) (_ep : EpNum) (s : State) : Result := protocolStep tokenSof s

/-- TOKEN with PID 0x6, no token (40 R126). -/
def execTokenInvalidNyet (_addr : DevAddr) (_ep : EpNum) (s : State) : Result := protocolStep tokenInvalid s

/-- TOKEN with PID 0x7, no token (40 R126). -/
def execTokenInvalidData2 (_addr : DevAddr) (_ep : EpNum) (s : State) : Result := protocolStep tokenInvalid s

/-- TOKEN with PID 0x8, no token (40 R126). -/
def execTokenInvalidSplit (_addr : DevAddr) (_ep : EpNum) (s : State) : Result := protocolStep tokenInvalid s

/-- TOKEN IN (40 R130). -/
def execTokenIn (addr : DevAddr) (ep : EpNum) (s : State) : Result :=
  protocolStep (addressedToken (tokenData .dirIn) addr ep) s

/-- TOKEN with PID 0xA, no token (40 R126). -/
def execTokenInvalidNak (_addr : DevAddr) (_ep : EpNum) (s : State) : Result := protocolStep tokenInvalid s

/-- TOKEN with PID 0xB, no token (40 R126). -/
def execTokenInvalidData1 (_addr : DevAddr) (_ep : EpNum) (s : State) : Result := protocolStep tokenInvalid s

/-- TOKEN with PID 0xC, no token (40 R126). -/
def execTokenInvalidPreErr (_addr : DevAddr) (_ep : EpNum) (s : State) : Result := protocolStep tokenInvalid s

/-- TOKEN SETUP (40 R129). -/
def execTokenSetup (addr : DevAddr) (ep : EpNum) (s : State) : Result :=
  protocolStep (addressedToken tokenSetup addr ep) s

/-- TOKEN with PID 0xE, no token (40 R126). -/
def execTokenInvalidStall (_addr : DevAddr) (_ep : EpNum) (s : State) : Result := protocolStep tokenInvalid s

/-- TOKEN with PID 0xF, no token (40 R126). -/
def execTokenInvalidMdata (_addr : DevAddr) (_ep : EpNum) (s : State) : Result := protocolStep tokenInvalid s

end Sys2Proof.Machine
end

