-- ==== Sys2Proof/Machine/Unmapped.lean ====
section
/-! DEFINITION. CPU accesses to unmapped offsets, 0x48 to 0xFF: a read returns 0, a write changes nothing (45 R286). -/

namespace Sys2Proof.Machine

/-- RD of an unmapped offset, 0x48 to 0x4F (45 R286). -/
def execRdUnmapped48 (_reg : BitVec 6) (s : State) : Result := cpuRead 0 s

/-- WR of an unmapped offset, 0x48 to 0x4F (45 R286). -/
def execWrUnmapped48 (_reg : BitVec 6) (_d : Word) (s : State) : Result := cpuIgnore s

/-- RD of an unmapped offset, 0x50 to 0x5F (45 R286). -/
def execRdUnmapped50 (_reg : BitVec 6) (s : State) : Result := cpuRead 0 s

/-- WR of an unmapped offset, 0x50 to 0x5F (45 R286). -/
def execWrUnmapped50 (_reg : BitVec 6) (_d : Word) (s : State) : Result := cpuIgnore s

/-- RD of an unmapped offset, 0x60 to 0x7F (45 R286). -/
def execRdUnmapped60 (_reg : BitVec 6) (s : State) : Result := cpuRead 0 s

/-- WR of an unmapped offset, 0x60 to 0x7F (45 R286). -/
def execWrUnmapped60 (_reg : BitVec 6) (_d : Word) (s : State) : Result := cpuIgnore s

/-- RD of an unmapped offset, 0x80 to 0xFF (45 R286). -/
def execRdUnmapped80 (_reg : BitVec 6) (s : State) : Result := cpuRead 0 s

/-- WR of an unmapped offset, 0x80 to 0xFF (45 R286). -/
def execWrUnmapped80 (_reg : BitVec 6) (_d : Word) (s : State) : Result := cpuIgnore s

end Sys2Proof.Machine
end

