-- ==== Sys2Proof/Machine/Dispatch.lean ====
section
/-! DEFINITION. The dispatch of an instruction to its meaning, one arm for each constructor (40 R120, 45 R287). -/

namespace Sys2Proof.Machine

def exec (i : Instr) (s : State) : Host.Outcome State Fault Refusal :=
  match i with
  | .nop idle => Sys2Proof.Machine.execNop idle s
  | .start => Sys2Proof.Machine.execStart s
  | .tokenInvalidRsv0 addr ep => Sys2Proof.Machine.execTokenInvalidRsv0 addr ep s
  | .tokenOut addr ep => Sys2Proof.Machine.execTokenOut addr ep s
  | .tokenInvalidAck addr ep => Sys2Proof.Machine.execTokenInvalidAck addr ep s
  | .tokenInvalidData0 addr ep => Sys2Proof.Machine.execTokenInvalidData0 addr ep s
  | .tokenInvalidPing addr ep => Sys2Proof.Machine.execTokenInvalidPing addr ep s
  | .tokenSof addr ep => Sys2Proof.Machine.execTokenSof addr ep s
  | .tokenInvalidNyet addr ep => Sys2Proof.Machine.execTokenInvalidNyet addr ep s
  | .tokenInvalidData2 addr ep => Sys2Proof.Machine.execTokenInvalidData2 addr ep s
  | .tokenInvalidSplit addr ep => Sys2Proof.Machine.execTokenInvalidSplit addr ep s
  | .tokenIn addr ep => Sys2Proof.Machine.execTokenIn addr ep s
  | .tokenInvalidNak addr ep => Sys2Proof.Machine.execTokenInvalidNak addr ep s
  | .tokenInvalidData1 addr ep => Sys2Proof.Machine.execTokenInvalidData1 addr ep s
  | .tokenInvalidPreErr addr ep => Sys2Proof.Machine.execTokenInvalidPreErr addr ep s
  | .tokenSetup addr ep => Sys2Proof.Machine.execTokenSetup addr ep s
  | .tokenInvalidStall addr ep => Sys2Proof.Machine.execTokenInvalidStall addr ep s
  | .tokenInvalidMdata addr ep => Sys2Proof.Machine.execTokenInvalidMdata addr ep s
  | .rxb b => Sys2Proof.Machine.execRxb b s
  | .txpop => Sys2Proof.Machine.execTxpop s
  | .dend => Sys2Proof.Machine.execDend s
  | .txnEnd c => Sys2Proof.Machine.execTxnEnd c s
  | .err => Sys2Proof.Machine.execErr s
  | .brst => Sys2Proof.Machine.execBrst s
  | .dbg a => Sys2Proof.Machine.execDbg a s
  | .reservedKindAB kind => Sys2Proof.Machine.execReservedKindAB kind s
  | .reservedKindCF kind => Sys2Proof.Machine.execReservedKindCF kind s
  | .rdAddress => Sys2Proof.Machine.execRdAddress s
  | .wrAddress d => Sys2Proof.Machine.execWrAddress d s
  | .rdEnableOut => Sys2Proof.Machine.execRdEnableOut s
  | .wrEnableOut d => Sys2Proof.Machine.execWrEnableOut d s
  | .rdEnableIn => Sys2Proof.Machine.execRdEnableIn s
  | .wrEnableIn d => Sys2Proof.Machine.execWrEnableIn d s
  | .rdStage => Sys2Proof.Machine.execRdStage s
  | .wrStage d => Sys2Proof.Machine.execWrStage d s
  | .rdErrorCount => Sys2Proof.Machine.execRdErrorCount s
  | .wrErrorCount d => Sys2Proof.Machine.execWrErrorCount d s
  | .rdInvalidStateCount => Sys2Proof.Machine.execRdInvalidStateCount s
  | .wrInvalidStateCount d => Sys2Proof.Machine.execWrInvalidStateCount d s
  | .rdTokenWaitCount => Sys2Proof.Machine.execRdTokenWaitCount s
  | .wrTokenWaitCount d => Sys2Proof.Machine.execWrTokenWaitCount d s
  | .rdEvPending => Sys2Proof.Machine.execRdEvPending s
  | .wrEvPending d => Sys2Proof.Machine.execWrEvPending d s
  | .rdEvEnable => Sys2Proof.Machine.execRdEvEnable s
  | .wrEvEnable d => Sys2Proof.Machine.execWrEvEnable d s
  | .rdSetupData => Sys2Proof.Machine.execRdSetupData s
  | .wrSetupData d => Sys2Proof.Machine.execWrSetupData d s
  | .rdSetupAdvance => Sys2Proof.Machine.execRdSetupAdvance s
  | .wrSetupAdvance d => Sys2Proof.Machine.execWrSetupAdvance d s
  | .rdSetupStatus => Sys2Proof.Machine.execRdSetupStatus s
  | .wrSetupStatus d => Sys2Proof.Machine.execWrSetupStatus d s
  | .rdInData => Sys2Proof.Machine.execRdInData s
  | .wrInData d => Sys2Proof.Machine.execWrInData d s
  | .rdInCtrl => Sys2Proof.Machine.execRdInCtrl s
  | .wrInCtrl d => Sys2Proof.Machine.execWrInCtrl d s
  | .rdInStatus => Sys2Proof.Machine.execRdInStatus s
  | .wrInStatus d => Sys2Proof.Machine.execWrInStatus d s
  | .rdOutData => Sys2Proof.Machine.execRdOutData s
  | .wrOutData d => Sys2Proof.Machine.execWrOutData d s
  | .rdOutCtrl => Sys2Proof.Machine.execRdOutCtrl s
  | .wrOutCtrl d => Sys2Proof.Machine.execWrOutCtrl d s
  | .rdOutStatus => Sys2Proof.Machine.execRdOutStatus s
  | .wrOutStatus d => Sys2Proof.Machine.execWrOutStatus d s
  | .rdUnmapped48 reg => Sys2Proof.Machine.execRdUnmapped48 reg s
  | .wrUnmapped48 reg d => Sys2Proof.Machine.execWrUnmapped48 reg d s
  | .rdUnmapped50 reg => Sys2Proof.Machine.execRdUnmapped50 reg s
  | .wrUnmapped50 reg d => Sys2Proof.Machine.execWrUnmapped50 reg d s
  | .rdUnmapped60 reg => Sys2Proof.Machine.execRdUnmapped60 reg s
  | .wrUnmapped60 reg d => Sys2Proof.Machine.execWrUnmapped60 reg d s
  | .rdUnmapped80 reg => Sys2Proof.Machine.execRdUnmapped80 reg s
  | .wrUnmapped80 reg d => Sys2Proof.Machine.execWrUnmapped80 reg d s

end Sys2Proof.Machine
end

