-- ==== Sys2Proof/Machine/Step.lean ====
section
/-! DEFINITION. One step of the machine: the next input word of the interleaving is applied (00 R7, R8). -/

namespace Sys2Proof.Machine

/-- One step applies the oldest input word still to come, whichever agent's it is (log entry 1). With none, the block
waits: nothing changes (70 R342, log entry 2). -/
def step (s : State) : Host.Outcome State Fault Refusal :=
  match s.inputs with
  | [] => .next s
  | w :: rest => exec (decode w) (consume rest s)

/-- `s` with the opcode-table word `w` as the next input word (log entry 12). -/
def State.withFetchWord (s : State) (nbits w : Nat) : State :=
  { s with inputs := InputWord.ofTable nbits w :: s.inputs }

end Sys2Proof.Machine
end

