-- ==== Sys2Proof/Machine/Contract.lean ====
section
/-! DEFINITION. The contracts the block assumes of the transfer core and of the CPU (40 R141, 60 R330, R331): which words
they may give, as hypotheses about a run. The machine does not enforce them (log entry 20). -/

namespace Sys2Proof.Machine

/-! ### The transfer core (60 R330) -/

/-- Where the core stands: in the framing START, TOKEN, data phase, END of a transaction (T1), with the answer it has
sampled (40 R141). It follows the words the core gave, so that a transaction lasts until its END, an ERR or a BRST
(00 R16), also where the engine has already left it. -/
inductive CorePhase where
  /-- no transaction -/
  | between
  /-- START was given; the token is due -/
  | started
  /-- the bus went idle before the token, and the engine gave up the wait (40 R123) -/
  | idled
  /-- the token opened no transaction (40 R126 to R128); an END without commit may follow -/
  | closed
  /-- a receive-type route: so many payload bytes were given -/
  | receiving (bytes : Nat)
  /-- an IN-type route answered with a DATA packet. `offered`: since the token or the last TXPOP a byte was offered;
  `emptied`: since then the core may have seen `tx_have = 0` (70 R355). -/
  | sending (offered emptied : Bool)
  /-- an IN-type route answered with STALL or NAK -/
  | declined
  /-- a receive-type route sampled after DEND: `ack` if the answer was ACK; or a declined one after DEND -/
  | answered (ack : Bool)
  /-- the DATA packet was sent, and DEND given; the host's answer is due -/
  | sent
  /-- a transaction that the debug bridge took: the bridge decides, until its END (T9) -/
  | bridged
  deriving DecidableEq, Repr

/-- The core receives the data packet in this route (40 R141). -/
def Route.receives : Route → Bool
  | .rSetup | .rOut | .rStatusOut => true
  | .rNone | .rWait | .rIn | .rStatusIn | .rDebug => false

/-- The bytes of a SETUP's data packet: 8 of payload and 2 of CRC (T3, 42 R193). -/
def setupPacketBytes : Nat := 10

/-- The core keeps its contract in giving this word now. START, TOKEN and END: T1; the tokens' address: T7; RXB: T3;
TXPOP and the DEND of a DATA packet: T2; the DEND of a received packet: T3; C of an END: T4; DBG: T9. ERR (T5), BRST (T6)
and NOP (T8) may come at any time, and T10 and T11 bound no word. -/
def coreAllows (p : CorePhase) (s : State) : Instr → Bool
  | .nop _ | .err | .brst => true
  | .start =>
    match p with
    | .between | .idled | .closed => true
    | .started | .receiving _ | .sending _ _ | .declined | .answered _ | .sent | .bridged => false
  | .tokenSetup addr _ | .tokenIn addr _ | .tokenOut addr _ =>
    (p == .started || p == .idled) && addr == s.addrEff
  | .tokenSof _ _
  | .tokenInvalidRsv0 _ _ | .tokenInvalidAck _ _ | .tokenInvalidData0 _ _ | .tokenInvalidPing _ _
  | .tokenInvalidNyet _ _ | .tokenInvalidData2 _ _ | .tokenInvalidSplit _ _ | .tokenInvalidNak _ _
  | .tokenInvalidData1 _ _ | .tokenInvalidPreErr _ _ | .tokenInvalidStall _ _ | .tokenInvalidMdata _ _ => p == .started || p == .idled
  | .rxb _ =>
    match p with
    | .receiving n => s.route != .rSetup || decide (n < setupPacketBytes)
    | .bridged => true
    | .between | .started | .idled | .closed | .sending _ _ | .declined | .answered _ | .sent => false
  | .txpop =>
    match p with
    | .sending offered _ => offered
    | .bridged => true
    | .between | .started | .idled | .closed | .receiving _ | .declined | .answered _ | .sent => false
  | .dend =>
    match p with
    | .receiving n => s.route != .rSetup || n == setupPacketBytes
    | .sending _ emptied => emptied
    | .declined | .bridged => true
    | .between | .started | .idled | .closed | .answered _ | .sent => false
  | .txnEnd c =>
    match p with
    | .closed | .declined => !c
    | .answered ack => c == ack
    | .sent | .bridged => true
    | .between | .started | .idled | .receiving _ | .sending _ _ => false
  | .dbg _ => s.cfg.debugPresent
  | .reservedKindAB _ | .reservedKindCF _ => false
  | .rdAddress | .wrAddress _ | .rdEnableOut | .wrEnableOut _ | .rdEnableIn | .wrEnableIn _ | .rdStage
  | .wrStage _ | .rdErrorCount | .wrErrorCount _ | .rdInvalidStateCount | .wrInvalidStateCount _
  | .rdTokenWaitCount | .wrTokenWaitCount _ | .rdEvPending | .wrEvPending _ | .rdEvEnable | .wrEvEnable _
  | .rdSetupData | .wrSetupData _ | .rdSetupAdvance | .wrSetupAdvance _ | .rdSetupStatus | .wrSetupStatus _
  | .rdInData | .wrInData _ | .rdInCtrl | .wrInCtrl _ | .rdInStatus | .wrInStatus _ | .rdOutData | .wrOutData _
  | .rdOutCtrl | .wrOutCtrl _ | .rdOutStatus | .wrOutStatus _ | .rdUnmapped48 _ | .wrUnmapped48 _ _
  | .rdUnmapped50 _ | .wrUnmapped50 _ _ | .rdUnmapped60 _ | .wrUnmapped60 _ _ | .rdUnmapped80 _
  | .wrUnmapped80 _ _ => true

/-- Where the core stands after its token, sampling an IN-type route (40 R141). -/
def afterToken (t : State) : CorePhase :=
  match t.route with
  | .rNone => .closed
  | .rWait => .started
  | .rSetup | .rOut | .rStatusOut => .receiving 0
  | .rDebug => .bridged
  | .rIn | .rStatusIn =>
    match handshake t with
    | some .data0 | some .data1 => .sending (txHaveSignal t) (!txHaveSignal t)
    | some .stall | some .nak | some .ack | none => .declined

/-- A step that is not the core's move: while it sends, what is offered in the state after it counts, whichever agent's
step it was (70 R355, R358). -/
def keepWatch (p : CorePhase) (t : State) : CorePhase :=
  match p with
  | .sending offered emptied => .sending (offered || txHaveSignal t) (emptied || !txHaveSignal t)
  | .between | .started | .idled | .closed | .receiving _ | .declined | .answered _ | .sent | .bridged => p

/-- Where the core stands after DEND, sampling a receive-type route (40 R141). -/
def afterDend (p : CorePhase) (t : State) : CorePhase :=
  match p with
  | .receiving _ => .answered (handshake t == some .ack)
  | .sending _ _ => .sent
  | .declined => .answered false
  | .between | .started | .idled | .closed | .answered _ | .sent | .bridged => p

/-- Where the core stands after a word, given the state `t` after it. -/
def coreAdvance (p : CorePhase) (i : Instr) (t : State) : CorePhase :=
  match i with
  | .start => .started
  | .tokenOut _ _ | .tokenSof _ _ | .tokenIn _ _ | .tokenSetup _ _
  | .tokenInvalidRsv0 _ _ | .tokenInvalidAck _ _ | .tokenInvalidData0 _ _ | .tokenInvalidPing _ _
  | .tokenInvalidNyet _ _ | .tokenInvalidData2 _ _ | .tokenInvalidSplit _ _ | .tokenInvalidNak _ _
  | .tokenInvalidData1 _ _ | .tokenInvalidPreErr _ _ | .tokenInvalidStall _ _ | .tokenInvalidMdata _ _ => afterToken t
  | .nop idle => if idle && p == .started then .idled else keepWatch p t
  | .rxb _ =>
    match p with
    | .receiving n => .receiving (n + 1)
    | .between | .started | .idled | .closed | .sending _ _ | .declined | .answered _ | .sent | .bridged => keepWatch p t
  | .txpop =>
    match p with
    | .sending _ _ => .sending (txHaveSignal t) (!txHaveSignal t)
    | .between | .started | .idled | .closed | .receiving _ | .declined | .answered _ | .sent | .bridged => p
  | .dend => afterDend p t
  | .txnEnd _ | .err | .brst => .between
  | .dbg _ | .reservedKindAB _ | .reservedKindCF _
  | .rdAddress | .wrAddress _ | .rdEnableOut | .wrEnableOut _ | .rdEnableIn | .wrEnableIn _ | .rdStage
  | .wrStage _ | .rdErrorCount | .wrErrorCount _ | .rdInvalidStateCount | .wrInvalidStateCount _
  | .rdTokenWaitCount | .wrTokenWaitCount _ | .rdEvPending | .wrEvPending _ | .rdEvEnable | .wrEvEnable _
  | .rdSetupData | .wrSetupData _ | .rdSetupAdvance | .wrSetupAdvance _ | .rdSetupStatus | .wrSetupStatus _
  | .rdInData | .wrInData _ | .rdInCtrl | .wrInCtrl _ | .rdInStatus | .wrInStatus _ | .rdOutData | .wrOutData _
  | .rdOutCtrl | .wrOutCtrl _ | .rdOutStatus | .wrOutStatus _ | .rdUnmapped48 _ | .wrUnmapped48 _ _
  | .rdUnmapped50 _ | .wrUnmapped50 _ _ | .rdUnmapped60 _ | .wrUnmapped60 _ _ | .rdUnmapped80 _
  | .wrUnmapped80 _ _ => keepWatch p t

/-- A run of the machine along which the core keeps its contract, with where the core stands at its end. -/
inductive ContractRun : State → CorePhase → State → CorePhase → Prop where
  | refl (s : State) (p : CorePhase) : ContractRun s p s p
  | tail {s t u : State} {p q : CorePhase} (i : Instr) (run : ContractRun s p t q)
      (allowed : coreAllows q t i = true) (next : exec i t = .next u) : ContractRun s p u (coreAdvance q i u)

/-! ### The CPU (60 R331) -/

/-- The conditions of 60 R331 that one access can break: P1 and P3 (a push with room, and not into a queued transfer),
P2 (an arm only when IN is idle), P5 (a data read only while HAVE = 1). P4 and P6 to P10 ask for an access to come and
bound none. -/
def cpuKeeps (s : State) : Instr → Bool
  | .wrInData _ => decide (s.inQ.length < Config.inCap) && inIdle s
  | .wrInCtrl d => fieldReset d || inIdle s
  | .rdSetupData => setupHave s
  | .rdOutData => outHave s
  | .nop _ | .start | .tokenInvalidRsv0 _ _ | .tokenOut _ _ | .tokenInvalidAck _ _ | .tokenInvalidData0 _ _
  | .tokenInvalidPing _ _ | .tokenSof _ _ | .tokenInvalidNyet _ _ | .tokenInvalidData2 _ _ | .tokenInvalidSplit _ _
  | .tokenIn _ _ | .tokenInvalidNak _ _ | .tokenInvalidData1 _ _ | .tokenInvalidPreErr _ _ | .tokenSetup _ _
  | .tokenInvalidStall _ _ | .tokenInvalidMdata _ _ | .rxb _ | .txpop | .dend | .txnEnd _ | .err | .brst | .dbg _
  | .reservedKindAB _ | .reservedKindCF _ | .rdAddress | .wrAddress _ | .rdEnableOut | .wrEnableOut _ | .rdEnableIn
  | .wrEnableIn _ | .rdStage | .wrStage _ | .rdErrorCount | .wrErrorCount _ | .rdInvalidStateCount
  | .wrInvalidStateCount _ | .rdTokenWaitCount | .wrTokenWaitCount _ | .rdEvPending | .wrEvPending _ | .rdEvEnable
  | .wrEvEnable _ | .wrSetupData _ | .rdSetupAdvance | .wrSetupAdvance _ | .rdSetupStatus | .wrSetupStatus _
  | .rdInData | .rdInCtrl | .rdInStatus | .wrInStatus _ | .wrOutData _ | .rdOutCtrl | .wrOutCtrl _ | .rdOutStatus
  | .wrOutStatus _ | .rdUnmapped48 _ | .wrUnmapped48 _ _ | .rdUnmapped50 _ | .wrUnmapped50 _ _ | .rdUnmapped60 _
  | .wrUnmapped60 _ _ | .rdUnmapped80 _ | .wrUnmapped80 _ _ => true

end Sys2Proof.Machine
end

