-- ==== Sys2Proof/Machine/Script.lean ====
section
/-! DEFINITION. Lists of input words that the spec gives a name: the pseudo-instructions (30 R107), the boot sequence
(70 R343), and the transfer core's signals of one clock cycle in order (60 R315). -/

namespace Sys2Proof.Machine

/-- The data of `WR IN_CTRL, EPNO=e RESET=r` (30 R106, 10 R40). -/
def inCtrlData (epno : EpNum) (reset : Bool) : Word := 0#27 ++ BitVec.ofBool reset ++ epno

/-- The data of `WR OUT_CTRL, ADVANCE=a ENABLE=e` (30 R106, 10 R40). -/
def outCtrlData (advance enable : Bool) : Word := 0#30 ++ BitVec.ofBool enable ++ BitVec.ofBool advance

/-- `XSETUP ep, b0..b9` (30 R107). -/
def xsetup (addr : DevAddr) (ep : EpNum) (bytes : Vector Byte Config.setupCap) : List Instr :=
  [.start, .tokenSetup addr ep] ++ bytes.toList.map .rxb ++ [.dend, .txnEnd true]

/-- `XOUT ep, [bytes], c` (30 R107). -/
def xout (addr : DevAddr) (ep : EpNum) (bytes : List Byte) (c : Bool) : List Instr :=
  [.start, .tokenOut addr ep] ++ bytes.map .rxb ++ [.dend, .txnEnd c]

/-- `XIN ep, n, c` (30 R107). -/
def xin (addr : DevAddr) (ep : EpNum) (n : Nat) (c : Bool) : List Instr :=
  [.start, .tokenIn addr ep] ++ List.replicate n .txpop ++ [.dend, .txnEnd c]

/-- `XSOF` (30 R107). -/
def xsof : List Instr := [.start, .tokenSof 0 0]

/-- `CPUSH b1..bn` (30 R107). -/
def cpush (bytes : List Byte) : List Instr := bytes.map fun b => .wrInData (zext32 b)

/-- `CARM ep` (30 R107). -/
def carm (ep : EpNum) : List Instr := [.wrInCtrl (inCtrlData ep false)]

/-- `CDRAIN_OUT n` (30 R107). -/
def cdrainOut (n : Nat) : List Instr :=
  (List.replicate n [.rdOutData, .wrOutCtrl (outCtrlData true false)]).flatten

/-- `CDRAIN_SETUP n` (30 R107). -/
def cdrainSetup (n : Nat) : List Instr := (List.replicate n [.rdSetupData, .wrSetupAdvance 0]).flatten

/-- The reference boot sequence (70 R343). -/
def bootSequence : List Instr :=
  [.wrEvEnable 0x7, .wrEnableOut 0x0001, .wrEnableIn 0x0001, .wrOutCtrl (outCtrlData false true)]

/-- The state with a script still to be applied after what is pending. -/
def State.load (s : State) (script : List Instr) : State := { s with inputs := s.inputs ++ script.map encode }

/-- The signals the transfer core raises in one clock cycle (60 R315). A token is PID, ADDR and EP. -/
structure CycleSignals where
  brst : Bool
  err : Bool
  dbg : Option Bool
  start : Bool
  token : Option (BitVec 4 × DevAddr × EpNum)
  rxb : Option Byte
  txpop : Bool
  dend : Bool
  txnEnd : Option Bool
  deriving DecidableEq, Repr

/-- The steps that model one cycle's signals: BRST alone, else ERR alone, else DBG, START, TOKEN, RXB, TXPOP, DEND, END
(60 R315). -/
def CycleSignals.steps (c : CycleSignals) : List Instr :=
  if c.brst then [.brst]
  else if c.err then [.err]
  else
    (c.dbg.map Instr.dbg).toList ++ (if c.start then [.start] else [])
      ++ (c.token.map fun t => decodeToken t.1 t.2.1 t.2.2).toList ++ (c.rxb.map Instr.rxb).toList
      ++ (if c.txpop then [.txpop] else []) ++ (if c.dend then [.dend] else [])
      ++ (c.txnEnd.map Instr.txnEnd).toList

end Sys2Proof.Machine
end

