-- ==== Sys2Proof/Safety.lean ====
section
/-! DEFINITION. What a safe run is, in the terms claims use: the engine's invariant (10 R24 and the bounds of 10 R28 to
R36), and the invariant of a run along which the transfer core keeps its contract (60 R330). -/

namespace Sys2Proof.Machine

/-! ### The invariant -/

/-- Which routes a stage allows (10 R24, read as a relation of stage and route; log entry 16). -/
def Stage.allows : Stage → Route → Bool
  | .idle, .rNone => true
  | .tokenCheck, .rWait => true
  | .setup, .rSetup => true
  | .controlIn, .rNone | .controlIn, .rWait | .controlIn, .rIn | .controlIn, .rOut => true
  | .controlOut, .rNone | .controlOut, .rWait | .controlOut, .rIn | .controlOut, .rOut
  | .controlOut, .rStatusIn => true
  | .waitControlAckIn, .rNone | .waitControlAckIn, .rWait | .waitControlAckIn, .rIn | .waitControlAckIn, .rOut
  | .waitControlAckIn, .rStatusIn => true
  | .waitControlAckOut, .rNone | .waitControlAckOut, .rWait | .waitControlAckOut, .rIn
  | .waitControlAckOut, .rOut | .waitControlAckOut, .rStatusOut => true
  | .genericIn, .rIn => true
  | .genericOut, .rOut => true
  | .waitDone, .rStatusOut => true
  | .debug, .rDebug => true
  | _, _ => false

/-- The stage and the route fit together (10 R24); a status or debug route is endpoint 0's (41 R160, R173). -/
def RouteInv (s : State) : Prop :=
  s.stage.allows s.route = true ∧
    (s.route = .rStatusIn ∨ s.route = .rStatusOut ∨ s.route = .rDebug → s.curEp = 0)

/-- The queues keep their capacity (10 R33, R36). -/
def QueueInv (s : State) : Prop :=
  s.inQ.length ≤ Config.inCap ∧ s.outQ.length + s.outRx.length ≤ Config.outCap

/-- Bytes are staged or lost, and the idle flag is 0, only while an OUT transaction is open (10 R36, 44 R240 to
R243). -/
def StagedInv (s : State) : Prop :=
  s.route ≠ .rOut → s.outRx = [] ∧ s.outOvf = false ∧ s.outIdle = true

/-- The read pointer stays within the record, and nothing is exposed of a record that is not committed (10 R31,
42 R190, R194, R197). -/
def RecordInv (s : State) : Prop :=
  s.setupRd.val ≤ s.setupLen.val ∧ (s.route = .rSetup → s.setupValid = false)

/-- The counters fit in `CTR_W` bits (10 R28). -/
def CounterInv (s : State) : Prop :=
  s.errorCount.toNat ≤ s.cfg.ctrMax ∧ s.invalidStateCount.toNat ≤ s.cfg.ctrMax ∧
    s.tokenWaitCount.toNat ≤ s.cfg.ctrMax

/-- Without the debug stage its flag stays 0 and its stage is never entered (10 R29, 41 R172, R173). -/
def DebugInv (s : State) : Prop :=
  s.cfg.debugPresent = false → s.debugActive = false ∧ s.stage ≠ .debug

/-- The reset output is high only right after an ERR, when no transaction is open (10 R30, 60 R300). -/
def PulseInv (s : State) : Prop := s.rstPulse = true → s.stage = .idle ∧ s.route = .rNone

/-- The invariant of the engine, kept by every step. -/
def EngineInv (s : State) : Prop :=
  RouteInv s ∧ QueueInv s ∧ StagedInv s ∧ RecordInv s ∧ CounterInv s ∧ DebugInv s ∧ PulseInv s

/-! ### The invariant of a run along which the transfer core keeps its contract -/

/-- The engine's route fits where the core stands. A SETUP that the core may commit has its ten bytes (42 R193), and an
OUT packet that it acknowledged lost none (44 R241); a core that sends has been offered what is offered (43 R212). -/
def PhaseInv (p : CorePhase) (s : State) : Prop :=
  match p with
  | .between | .idled | .closed => s.route = .rNone
  | .started => s.route = .rWait
  | .receiving n => s.route.receives = true ∧ (s.route = .rSetup → n ≤ setupPacketBytes ∧ s.setupIdx.val = n)
  | .sending offered emptied =>
    (s.route = .rIn ∨ s.route = .rStatusIn) ∧ (txHaveSignal s = true → offered = true) ∧
      (txHaveSignal s = false → emptied = true)
  | .declined => s.route = .rIn
  | .sent => s.route = .rIn ∨ s.route = .rStatusIn
  | .answered ack =>
    (s.route = .rIn ∧ ack = false) ∨
      (s.route = .rSetup ∧ ack = true ∧ s.setupIdx.val = setupPacketBytes) ∨ (s.route = .rStatusOut ∧ ack = true) ∨
      (s.route = .rOut ∧ (ack = true → s.outOvf = false))
  | .bridged => s.route = .rDebug ∨ s.route = .rNone

end Sys2Proof.Machine
end

