-- ==== Sys2Proof/Certificates/Slice0/Obligations.lean ====
section
/-! DEFINITION. The statements for the provers. Each says which rules of spec/ it formalises.
`protocolFrame s` is the start of every protocol step (40 R120), itself stated in `DendRunsOnlyTheFrame`; a result
written `{ s with … }` is also the instruction's frame: every field not named is unchanged. -/

open Sys2Proof Sys2Proof.Machine

/-! ### Encoding -/

/-- 30 R91, R93, R95, R100, R101: the decoder reads back every operand of every well-formed instruction. -/
def Obligations.DecodeEncodeRoundTrip : Prop :=
  ∀ i : Instr, i.wf = true → decode (encode i) = i

/-- 30 R103, R104: every input word decodes to a well-formed instruction whose opcode-table row it matches. -/
def Obligations.DecodedInstrMatchesItsRow : Prop :=
  ∀ w : InputWord, (decode w).wf = true ∧ (decode w).row ∈ opcodeRows ∧ (decode w).row.matchesWord w = true

/-- 30 R103: 27 PEW rows and 44 CAW rows, of which every input word matches exactly one. -/
def Obligations.EveryWordMatchesExactlyOneRow : Prop :=
  pewRows.length = 27 ∧ (cawReadRows ++ cawWriteRows).length = 44 ∧ opcodeRows.Nodup ∧
    ∀ w : InputWord, ∃ r ∈ opcodeRows, r.matchesWord w = true ∧
      ∀ r' ∈ opcodeRows, r'.matchesWord w = true → r' = r

/-- 30 R93, R95: payload bits not named for the kind do not reach the instruction. -/
def Obligations.PewIgnoresUnnamedBits : Prop :=
  (∀ pid addr ep (x : BitVec 1) (y : BitVec 4),
    decode (.pew (0x2#4 ++ pid ++ x ++ addr ++ y ++ ep)) = decodeToken pid addr ep) ∧
  (∀ (x : BitVec 12) (b : Byte), decode (.pew (0x3#4 ++ x ++ b)) = .rxb b) ∧
  (∀ (x : BitVec 19) (b : Bool), decode (.pew (0x0#4 ++ x ++ BitVec.ofBool b)) = .nop b ∧
    decode (.pew (0x6#4 ++ x ++ BitVec.ofBool b)) = .txnEnd b ∧
    decode (.pew (0x9#4 ++ x ++ BitVec.ofBool b)) = .dbg b) ∧
  (∀ x : BitVec 20, decode (.pew (0x1#4 ++ x)) = .start ∧ decode (.pew (0x4#4 ++ x)) = .txpop ∧
    decode (.pew (0x5#4 ++ x)) = .dend ∧ decode (.pew (0x7#4 ++ x)) = .err ∧
    decode (.pew (0x8#4 ++ x)) = .brst)

/-- 20 R75, 30 R100: `OFF[1:0]`, and D of a read, do not reach the instruction. -/
def Obligations.CawIgnoresOffsetLowBitsAndReadData : Prop :=
  ∀ (reg : BitVec 6) (lo : BitVec 2) (d : Word),
    decode (.caw (0#1 ++ reg ++ lo ++ d)) = decode (readWord reg) ∧
    decode (.caw (1#1 ++ reg ++ lo ++ d)) = decode (writeWord reg d)

/-- 30 R92 to R95, R100: words written out from the encoding decode to what they stand for (sanity). -/
def Obligations.SpecWordsDecode : Prop :=
  decode (.pew 0x2D0000) = .tokenSetup 0 0 ∧ decode (.pew 0x2905FF) = .tokenIn 5 15 ∧
  decode (.pew 0x6000FE) = .txnEnd false ∧ decode (.pew 0x3ABCDE) = .rxb 0xDE ∧
  decode (.caw 0x13400000011) = .wrInCtrl 0x11 ∧ decode (.caw 0x00100000000) = .rdAddress ∧
  decode (.caw 0x1FC12345678) = .wrUnmapped80 0x3F 0x12345678

/-! ### The step -/

/-- 00 R7, R8: a step runs the instruction of the oldest pending input word. Around it the step does the model's own
part (log entries 1 to 4): it takes the word, clears the read port and renews the free values; with no word it waits. -/
def Obligations.StepRunsTheNextWord : Prop :=
  (∀ s w rest, s.inputs = w :: rest →
    step s = exec (decode w) { s with inputs := rest, readData := none, drawIdx := s.drawIdx + 1 }) ∧
  (∀ s, s.inputs = [] → step s = .next s) ∧
  (∀ (s : State) nbits w, step (s.withFetchWord nbits w) =
    exec (decode (InputWord.ofTable nbits w)) { s with readData := none, drawIdx := s.drawIdx + 1 })

/-- 60 R310: no input word faults, and every legal word has a next state: all 69 instructions but the two reserved
rows, in every state. -/
def Obligations.EveryLegalWordHasANextState : Prop :=
  ∀ i s, (∀ k, i ≠ .reservedKindAB k) → (∀ k, i ≠ .reservedKindCF k) → ∃ t, exec i s = .next t

/-- 30 R97: a PEW of KIND 0xA to 0xF is refused by name, whatever its payload. -/
def Obligations.ReservedKindsAreRefused : Prop :=
  (∀ s (kind : BitVec 4) (x : BitVec 20), 0xA#4 ≤ kind →
    exec (decode (.pew (kind ++ x))) s = .refused .reservedEventKind) ∧
  (∀ s k, exec (.reservedKindAB k) s = .refused .reservedEventKind ∧
    exec (.reservedKindCF k) s = .refused .reservedEventKind)

/-! ### Reset and the invariant -/

/-- 70 R340: the power-on value of every field the rule gives one. -/
def Obligations.PowerOnResetValues : Prop :=
  let s := State.reset
  s.stage = .idle ∧ s.route = .rNone ∧ s.curEp = 0 ∧ s.addrReg = 0 ∧ s.addrEff = 0 ∧ s.enOut = 0 ∧ s.enIn = 0 ∧
  s.errorCount = 0 ∧ s.invalidStateCount = 0 ∧ s.tokenWaitCount = 0 ∧ s.debugActive = false ∧ s.rstPulse = false ∧
  s.setupIdx = 0 ∧ s.setupLen = 0 ∧ s.setupRd = 0 ∧ s.setupValid = false ∧ s.setupIsIn = false ∧
  s.setupLenNz = false ∧ s.setupEp = 0 ∧ s.inQ = [] ∧ s.inEp = 0 ∧ s.inQueued = false ∧ s.dtb = 0xFFFF ∧
  s.outQ = [] ∧ s.outRx = [] ∧ s.outOvf = false ∧ s.outEn = false ∧ s.outIdle = true ∧ s.outEp = 0 ∧
  s.evPend = 0 ∧ s.evEn = 0

/-- 70 R341: what is observable right after power-on reset. The byte a read of an empty FIFO returns is the model's free
value `Config.draw8` (DESIGN CHOICE, log entry 4), at any index `n`, so that it is the unconstrained one of any step. -/
def Obligations.PowerOnObservables : Prop :=
  ∀ n, let s := { State.reset with drawIdx := n }
  (∀ i ∈ [Instr.rdAddress, .rdEnableOut, .rdEnableIn, .rdStage, .rdErrorCount, .rdInvalidStateCount,
      .rdTokenWaitCount, .rdEvPending, .rdEvEnable, .rdSetupStatus],
    exec i s = .next { s with readData := some 0 }) ∧
  (∀ i ∈ [Instr.rdInStatus, .rdOutStatus], exec i s = .next { s with readData := some 0x00000002 }) ∧
  (∀ i ∈ [Instr.rdSetupData, .rdOutData],
    exec i s = .next { s with readData := some ((Config.draw8 n).setWidth 32) }) ∧
  outputs s = { arm := false, stall := false, dtb := false, txHave := false, txByte := 0, rxSink := false,
                reset := false, address := 0, irq := false }

/-- The invariant holds after power-on reset (10 R24, R28 to R36; 70 R340), and a transfer core that has given nothing
stands where the engine does (60 R330, log entry 20). -/
def Obligations.InvAtReset : Prop := EngineInv State.reset ∧ PhaseInv .between State.reset

/-- Every step keeps the invariant: stage and route fit (10 R24), the queues keep their capacity (10 R33, R36), staged
bytes belong to an open OUT transaction (44 R240 to R243), an open SETUP exposes no record (42 R190), the counters fit
in `CTR_W` bits (10 R28), the debug stage exists only if present (10 R29), the reset pulse follows an ERR (10 R30). -/
def Obligations.StepKeepsInv : Prop :=
  ∀ s s', EngineInv s → step s = .next s' → EngineInv s'

/-- 00 R10: no step changes the parameters; a PEW leaves the read port, and every step leaves the words after the one it
takes. -/
def Obligations.StepKeepsParameters : Prop :=
  ∀ s s', step s = .next s' → s'.cfg = s.cfg ∧ s'.inputs = s.inputs.tail ∧
    (∀ w rest, s.inputs = .pew w :: rest → s'.readData = none)

/-! ### Protocol events -/

/-- 40 R120, R133: DEND does the frame of a protocol step and nothing else: the reset output falls, and in IDLE the
address is latched and the setup byte counter reset. -/
def Obligations.DendRunsOnlyTheFrame : Prop :=
  ∀ s, exec .dend s = .next (protocolFrame s) ∧
    protocolFrame s = { s with
      rstPulse := false
      addrEff := if s.stage = .idle then s.addrReg else s.addrEff
      setupIdx := if s.stage = .idle then 0 else s.setupIdx }

/-- 40 R123: NOP. -/
def Obligations.NopResult : Prop :=
  ∀ s, (∀ i, s.route ≠ .rWait → exec (.nop i) s = .next (protocolFrame s)) ∧
    (s.route = .rWait →
      exec (.nop true) s = .next { protocolFrame s with
        route := .rNone, stage := if s.stage = .tokenCheck then .idle else s.stage } ∧
      exec (.nop false) s = .next { protocolFrame s with
        tokenWaitCount := if s.tokenWaitCount.toNat < 2 ^ s.cfg.ctrW - 1 then s.tokenWaitCount + 1
          else s.tokenWaitCount })

/-- 40 R121, R124: with no transaction open, START opens one: from IDLE the stage is TOKEN_CHECK, from any other it is
kept. With one open it first ends it as END with C = 0 would, and then does the same. -/
def Obligations.StartResult : Prop :=
  ∀ s, (s.route = .rNone →
      exec .start s = .next { protocolFrame s with
        route := .rWait, stage := if s.stage = .idle then .tokenCheck else s.stage }) ∧
    (s.route ≠ .rNone → ∃ t, exec (.txnEnd false) s = .next t ∧
      exec .start s = .next { t with
        route := .rWait, stage := if t.stage = .idle then .tokenCheck else t.stage })

/-- 40 R125: a token of any of the 16 PIDs that no START announced acts as START and then the token. -/
def Obligations.TokenWithoutStartActsAsStartThenToken : Prop :=
  ∀ s pid addr ep, s.route ≠ .rWait →
    ∃ t, exec .start s = .next t ∧ exec (decodeToken pid addr ep) s = exec (decodeToken pid addr ep) t

/-- 40 R125, R126, 60 R302: each of the 12 PIDs that are no token is counted, whatever its address, and returns the
engine to IDLE. -/
def Obligations.InvalidPidIsCountedAndReturnsToIdle : Prop :=
  ∀ s pid addr ep, s.route = .rWait → pid ≠ 0x1#4 → pid ≠ 0x9#4 → pid ≠ 0x5#4 → pid ≠ 0xD#4 →
    exec (decodeToken pid addr ep) s = .next { protocolFrame s with
      invalidStateCount := if s.invalidStateCount.toNat < 2 ^ s.cfg.ctrW - 1 then s.invalidStateCount + 1
        else s.invalidStateCount
      route := .rNone
      stage := .idle }

/-- 40 R127, R128: a SOF, and a SETUP, IN or OUT token with another address than the latched one, close the wait and
keep a control stage. -/
def Obligations.IgnoredTokensCloseTheWait : Prop :=
  ∀ s addr ep, s.route = .rWait →
    exec (.tokenSof addr ep) s = .next { protocolFrame s with
      route := .rNone, stage := if s.stage = .tokenCheck then .idle else s.stage } ∧
    (addr ≠ (protocolFrame s).addrEff → ∀ i ∈ [Instr.tokenSetup addr ep, .tokenIn addr ep, .tokenOut addr ep],
      exec i s = .next { protocolFrame s with
        route := .rNone, stage := if s.stage = .tokenCheck then .idle else s.stage })

/-- 40 R125, 41 R173: while a debug session is active, SETUP, IN and OUT tokens on endpoint 0 enter DEBUG; the bridge takes
a token in no other case. -/
def Obligations.DebugSessionTakesEndpointZeroTokens : Prop :=
  (∀ s addr, s.route = .rWait → addr = (protocolFrame s).addrEff → s.cfg.debugPresent = true → s.debugActive = true →
    ∀ i ∈ [Instr.tokenSetup addr 0, .tokenIn addr 0, .tokenOut addr 0],
      exec i s = .next { protocolFrame s with curEp := 0, route := .rDebug, stage := .debug }) ∧
  (∀ s e, debugIntercepts s e = true ↔ s.cfg.debugPresent = true ∧ s.debugActive = true ∧ e = 0)

/-- 40 R129, 42 R190: an accepted SETUP opens SETUP and discards any prior record. -/
def Obligations.SetupTokenResult : Prop :=
  ∀ s addr ep, s.route = .rWait → addr = (protocolFrame s).addrEff → debugIntercepts s ep = false →
    exec (.tokenSetup addr ep) s = .next { protocolFrame s with
      curEp := ep, route := .rSetup, stage := .setup, setupValid := false, setupRd := 0, setupLen := 0,
      setupIdx := 0, setupIsIn := false, setupLenNz := false }

/-- 40 R130, 41 R160: a data token opened from IDLE takes the generic path, on every endpoint. -/
def Obligations.GenericDataTokenResult : Prop :=
  ∀ s addr ep, s.route = .rWait → s.stage = .tokenCheck → addr = s.addrEff → debugIntercepts s ep = false →
    exec (.tokenIn addr ep) s = .next { s with rstPulse := false, curEp := ep, route := .rIn, stage := .genericIn } ∧
    exec (.tokenOut addr ep) s = .next { s with rstPulse := false, curEp := ep, route := .rOut, stage := .genericOut }

/-- 41 R160: a data token on another endpoint during a control transfer takes the generic route and keeps the stage. -/
def Obligations.OtherEndpointDuringControlTransfer : Prop :=
  ∀ s addr ep, s.route = .rWait →
    (s.stage = .controlIn ∨ s.stage = .controlOut ∨ s.stage = .waitControlAckIn ∨ s.stage = .waitControlAckOut) →
    addr = s.addrEff → ep ≠ 0 →
    exec (.tokenIn addr ep) s = .next { s with rstPulse := false, curEp := ep, route := .rIn } ∧
    exec (.tokenOut addr ep) s = .next { s with rstPulse := false, curEp := ep, route := .rOut }

/-- 41 R160: the eight cases of a data token on endpoint 0 in a control stage. -/
def Obligations.ControlStageRoutingTable : Prop :=
  ∀ s addr, s.route = .rWait → addr = s.addrEff → debugIntercepts s 0 = false →
    let routed (r : Route) (g : Stage) : Result :=
      .next { s with rstPulse := false, curEp := 0, route := r, stage := g }
    (s.stage = .controlIn → exec (.tokenIn addr 0) s = routed .rIn .controlIn ∧
      exec (.tokenOut addr 0) s = routed .rStatusOut .waitDone) ∧
    (s.stage = .controlOut → exec (.tokenOut addr 0) s = routed .rOut .controlOut ∧
      exec (.tokenIn addr 0) s = routed .rStatusIn .controlOut) ∧
    (s.stage = .waitControlAckIn → exec (.tokenIn addr 0) s = routed .rStatusIn .waitControlAckIn ∧
      exec (.tokenOut addr 0) s = routed .rOut .waitControlAckIn) ∧
    (s.stage = .waitControlAckOut → exec (.tokenOut addr 0) s = routed .rStatusOut .waitControlAckOut ∧
      exec (.tokenIn addr 0) s = routed .rIn .waitControlAckOut)

/-- 40 R131, 42 R192: RXB in a SETUP: the first ten bytes are stored and classified, later ones dropped. The premise on
the stage holds in every state of a run (10 R24, `EngineInv`). -/
def Obligations.RxbInSetupResult : Prop :=
  ∀ s b, s.route = .rSetup → s.stage ≠ .idle →
    (∀ (h : s.setupIdx.val < 10) (next : Fin 11), next.val = s.setupIdx.val + 1 →
      exec (.rxb b) s = .next { s with
        rstPulse := false
        setupBuf := s.setupBuf.set s.setupIdx.val b h
        setupIsIn := if s.setupIdx.val = 0 then b.getLsbD 7 else s.setupIsIn
        setupLenNz := (decide (s.setupIdx.val = 6 ∨ s.setupIdx.val = 7) && b != 0) || s.setupLenNz
        setupIdx := next }) ∧
    (s.setupIdx.val = 10 → exec (.rxb b) s = .next { s with rstPulse := false })

/-- 40 R131, 44 R240, R241: RXB in an OUT transaction is staged while committed and open bytes leave room, and else lost
and marked; in every other route but R_SETUP it does nothing. -/
def Obligations.RxbOutsideSetupResult : Prop :=
  ∀ s b, (s.route = .rOut →
      (s.outQ.length + s.outRx.length < 128 →
        exec (.rxb b) s = .next { protocolFrame s with outRx := s.outRx ++ [b], outIdle := false }) ∧
      (128 ≤ s.outQ.length + s.outRx.length →
        exec (.rxb b) s = .next { protocolFrame s with outOvf := true, outIdle := false })) ∧
    (s.route ≠ .rOut → s.route ≠ .rSetup → exec (.rxb b) s = .next (protocolFrame s))

/-- 40 R132, 43 R212: TXPOP pops the byte offered, in the two IN routes; with none offered, and in every other route, it
does nothing. -/
def Obligations.TxpopResult : Prop :=
  ∀ s, ((s.route = .rIn ∨ s.route = .rStatusIn) → (outputs s).txHave = true →
      exec .txpop s = .next { protocolFrame s with inQ := s.inQ.tail }) ∧
    ((s.route = .rIn ∨ s.route = .rStatusIn) → (outputs s).txHave = false →
      exec .txpop s = .next (protocolFrame s)) ∧
    (s.route ≠ .rIn → s.route ≠ .rStatusIn → exec .txpop s = .next (protocolFrame s)) ∧
    (s.route = .rIn → ((outputs s).txHave = true ↔
      s.enIn.getLsbD s.curEp.toNat = true ∧ s.inQueued = true ∧ s.inEp = s.curEp ∧ s.inQ ≠ [])) ∧
    (s.route = .rStatusIn → ((outputs s).txHave = true ↔ s.inQueued = true ∧ s.inEp = 0 ∧ s.inQ ≠ []))

/-- 41 R167, 42 R194: a committed SETUP exposes the record, sets the toggle bit of its endpoint and no other, raises its
event and moves to the next control stage. The premise on the stage holds in every state of a run (10 R24, `EngineInv`). -/
def Obligations.SetupCommitResult : Prop :=
  ∀ s, s.route = .rSetup → s.stage ≠ .idle → ∃ dtb' : EpVec,
    (∀ e : EpNum, dtb'.getLsbD e.toNat = if e = s.curEp then true else s.dtb.getLsbD e.toNat) ∧
    exec (.txnEnd true) s = .next { s with
      rstPulse := false
      setupValid := true
      setupLen := s.setupIdx
      setupRd := 0
      setupEp := s.curEp
      dtb := dtb'
      evPend := s.evPend ||| 0b001#3
      route := .rNone
      stage :=
        if s.curEp ≠ 0 then .idle
        else if s.setupLenNz then (if s.setupIsIn then .controlIn else .controlOut)
        else (if s.setupIsIn then .waitControlAckOut else .waitControlAckIn) }

/-- 40 R122, 43 R213: a commit in R_IN or R_STATUS_IN flips the toggle bit of its endpoint and no other, clears the queued
flag and raises the event only if the endpoint is the armed one; IN and the status stage return to IDLE. -/
def Obligations.InCommitResult : Prop :=
  ∀ s, (s.route = .rIn ∨ s.route = .rStatusIn) →
    let stage' : Stage := if s.route = .rStatusIn ∨ s.stage = .genericIn then .idle else s.stage
    (s.inQueued = true ∧ s.inEp = s.curEp → ∃ dtb' : EpVec,
      (∀ e : EpNum, dtb'.getLsbD e.toNat = if e = s.curEp then !s.dtb.getLsbD e.toNat else s.dtb.getLsbD e.toNat) ∧
      exec (.txnEnd true) s = .next { protocolFrame s with
        dtb := dtb'
        inQueued := false
        evPend := s.evPend ||| 0b010#3
        route := .rNone
        stage := stage' }) ∧
    (¬(s.inQueued = true ∧ s.inEp = s.curEp) →
      exec (.txnEnd true) s = .next { protocolFrame s with route := .rNone, stage := stage' })

/-- 40 R122, 44 R242: a committed OUT packet is appended to the queue, clears the one-shot enable, is named by its
endpoint and raises its event. -/
def Obligations.OutCommitResult : Prop :=
  ∀ s, s.route = .rOut →
    exec (.txnEnd true) s = .next { protocolFrame s with
      outQ := s.outQ ++ s.outRx
      outEn := false
      outEp := s.curEp
      evPend := s.evPend ||| 0b100#3
      outRx := []
      outOvf := false
      outIdle := true
      route := .rNone
      stage := if s.stage = .genericOut then .idle else s.stage }

/-- 40 R122, 42 R195, 43 R214, 44 R243, 41 R170, R171, R174: END without commit, in every route; in the four
routes that have nothing to commit, C makes no difference. -/
def Obligations.UncommittedEndResult : Prop :=
  ∀ s, (s.route = .rNone → exec (.txnEnd false) s = .next (protocolFrame s)) ∧
    (s.route = .rWait → exec (.txnEnd false) s = .next { protocolFrame s with
      route := .rNone, stage := if s.stage = .tokenCheck then .idle else s.stage }) ∧
    (s.route = .rIn → exec (.txnEnd false) s = .next { protocolFrame s with
      route := .rNone, stage := if s.stage = .genericIn then .idle else s.stage }) ∧
    (s.route = .rOut → exec (.txnEnd false) s = .next { protocolFrame s with
      outRx := [], outOvf := false, outIdle := true, route := .rNone,
      stage := if s.stage = .genericOut then .idle else s.stage }) ∧
    (s.route = .rSetup ∨ s.route = .rStatusIn ∨ s.route = .rStatusOut ∨ s.route = .rDebug →
      exec (.txnEnd false) s = .next { protocolFrame s with route := .rNone, stage := .idle }) ∧
    (s.route = .rNone ∨ s.route = .rWait ∨ s.route = .rStatusOut ∨ s.route = .rDebug →
      exec (.txnEnd true) s = exec (.txnEnd false) s)

/-- 41 R172: DBG. -/
def Obligations.DbgResult : Prop :=
  ∀ s a, (s.cfg.debugPresent = false → exec (.dbg a) s = .next (protocolFrame s)) ∧
    (s.cfg.debugPresent = true → (a = true ∨ s.route ≠ .rDebug) →
      exec (.dbg a) s = .next { protocolFrame s with debugActive := a }) ∧
    (s.cfg.debugPresent = true → s.route = .rDebug →
      exec (.dbg false) s = .next { protocolFrame s with
        debugActive := false, route := .rNone, stage := .idle })

/-- 60 R300: ERR does what an END without commit does, returns to IDLE from every stage, counts, and raises the reset
output. -/
def Obligations.ErrResult : Prop :=
  ∀ s, ∃ t, exec (.txnEnd false) s = .next t ∧
    exec .err s = .next { t with
      stage := .idle
      rstPulse := true
      errorCount := if s.errorCount.toNat < 2 ^ s.cfg.ctrW - 1 then s.errorCount + 1 else s.errorCount }

/-- 60 R301: BRST does what an END without commit does, returns to IDLE from every stage, and clears both copies of the
address. -/
def Obligations.BrstResult : Prop :=
  ∀ s, ∃ t, exec (.txnEnd false) s = .next t ∧
    exec .brst s = .next { t with stage := .idle, addrReg := 0, addrEff := 0 }

/-! ### CPU accesses -/

/-- 45 R271, R273, R275, R281, R283: the writes of the global and event registers, each of its own field alone. -/
def Obligations.GlobalRegisterWriteResults : Prop :=
  ∀ s (d : Word),
    exec (.wrAddress d) s = .next { s with addrReg := d.extractLsb' 0 7 } ∧
    exec (.wrEnableOut d) s = .next { s with enOut := d.extractLsb' 0 16 } ∧
    exec (.wrEnableIn d) s = .next { s with enIn := d.extractLsb' 0 16 } ∧
    exec (.wrEvPending d) s = .next { s with evPend := s.evPend &&& ~~~(d.extractLsb' 0 3) } ∧
    exec (.wrEvEnable d) s = .next { s with evEn := d.extractLsb' 0 3 }

/-- 45 R270, R272, R274, R276 to R280, R282; 10 R22: what the reads of the global and event registers return. -/
def Obligations.GlobalRegisterReadResults : Prop :=
  ∀ s, let returns (i : Instr) (n : Nat) : Prop :=
      exec i s = .next { s with readData := some (BitVec.ofNat 32 n) }
    returns .rdAddress s.addrReg.toNat ∧ returns .rdEnableOut s.enOut.toNat ∧ returns .rdEnableIn s.enIn.toNat ∧
    returns .rdErrorCount s.errorCount.toNat ∧ returns .rdInvalidStateCount s.invalidStateCount.toNat ∧
    returns .rdTokenWaitCount s.tokenWaitCount.toNat ∧ returns .rdEvPending s.evPend.toNat ∧
    returns .rdEvEnable s.evEn.toNat ∧
    ∀ p ∈ [(Stage.idle, 0), (.tokenCheck, 1), (.setup, 2), (.controlIn, 3), (.controlOut, 4), (.waitControlAckIn, 5),
        (.waitControlAckOut, 6), (.genericIn, 7), (.genericOut, 8), (.waitDone, 9), (.debug, 10)],
      s.stage = p.1 → returns .rdStage p.2

/-- 45 R284: writes to read-only registers are ignored. -/
def Obligations.ReadOnlyWritesAreIgnored : Prop :=
  ∀ s d, ∀ i ∈ [Instr.wrStage d, .wrErrorCount d, .wrInvalidStateCount d, .wrTokenWaitCount d, .wrSetupData d,
      .wrSetupStatus d, .wrInStatus d, .wrOutData d, .wrOutStatus d],
    exec i s = .next s

/-- 45 R285: reads of write-only registers return 0 and have no side effect. -/
def Obligations.WriteOnlyReadsReturnZero : Prop :=
  ∀ s, ∀ i ∈ [Instr.rdSetupAdvance, .rdInData, .rdInCtrl, .rdOutCtrl],
    exec i s = .next { s with readData := some 0 }

/-- 45 R286: at the offsets 0x48 to 0xFF a read returns 0 and a write changes nothing. The two forms of each of the four
unmapped rows are those of the second and third clause. -/
def Obligations.UnmappedOffsetsReadZeroAndIgnoreWrites : Prop :=
  (∀ s (off : BitVec 8) (d : Word), 0x48#8 ≤ off →
    exec (decode (.caw (0#1 ++ off ++ d))) s = .next { s with readData := some 0 } ∧
    exec (decode (.caw (1#1 ++ off ++ d))) s = .next s) ∧
  (∀ s reg, ∀ i ∈ [Instr.rdUnmapped48 reg, .rdUnmapped50 reg, .rdUnmapped60 reg, .rdUnmapped80 reg],
    exec i s = .next { s with readData := some 0 }) ∧
  (∀ s reg d, ∀ i ∈ [Instr.wrUnmapped48 reg d, .wrUnmapped50 reg d, .wrUnmapped60 reg d, .wrUnmapped80 reg d],
    exec i s = .next s)

/-- 20 R77: no read changes the block: a word with W = 0 returns data and leaves every field of the spec's state (and
the model's own, but the read port) as it was. -/
def Obligations.ReadsHaveNoSideEffect : Prop :=
  ∀ s (w : BitVec 41), w.getLsbD 40 = false →
    ∃ d, exec (decode (.caw w)) s = .next { s with readData := some d }

/-- 42 R196, R197: SETUP_DATA shows the byte at the read pointer and SETUP_ADVANCE pops it; with none unread the read
returns a free byte and the pop does nothing. -/
def Obligations.SetupDataAndAdvanceResults : Prop :=
  ∀ s, ((h : setupHave s = true) → ∀ (k : Fin 10) (next : Fin 11), k.val = s.setupRd.val → next.val = k.val + 1 →
      exec .rdSetupData s = .next { s with readData := some ((s.setupBuf[k]).setWidth 32) } ∧
      ∀ d, exec (.wrSetupAdvance d) s = .next { s with setupRd := next }) ∧
    (setupHave s = false →
      exec .rdSetupData s = .next { s with readData := some ((Config.draw8 s.drawIdx).setWidth 32) } ∧
      ∀ d, exec (.wrSetupAdvance d) s = .next s) ∧
    (setupHave s = true ↔ s.setupValid = true ∧ s.setupRd < s.setupLen)

/-- 42 R198, 43 R222, 44 R252: every bit of the three status registers. -/
def Obligations.StatusRegisterBits : Prop :=
  ∀ s, ∃ ds di dd : Word,
    exec .rdSetupStatus s = .next { s with readData := some ds } ∧
    exec .rdInStatus s = .next { s with readData := some di } ∧
    exec .rdOutStatus s = .next { s with readData := some dd } ∧
    ds.toNat = (setupHave s).toNat + 16 * s.setupEp.toNat + 256 * (s.evPend.getLsbD 0).toNat ∧
    di.toNat = (decide (s.inQ ≠ [])).toNat + 2 * (!s.inQueued).toNat + 256 * (s.evPend.getLsbD 1).toNat ∧
    dd.toNat = (decide (s.outQ ≠ [])).toNat + 2 * s.outIdle.toNat + 16 * s.outEp.toNat
      + 256 * (s.evPend.getLsbD 2).toNat

/-- 43 R220: IN_DATA pushes D[7:0] while there is room, and the byte after the 128th is dropped. -/
def Obligations.InDataPushResult : Prop :=
  ∀ s (d : Word), (s.inQ.length < 128 → exec (.wrInData d) s = .next { s with inQ := s.inQ ++ [d.extractLsb' 0 8] }) ∧
    (128 ≤ s.inQ.length → exec (.wrInData d) s = .next s)

/-- 43 R215, R221: IN_CTRL: RESET flushes and takes precedence; an arm selects the endpoint, and is ignored while a
transfer is queued. -/
def Obligations.InCtrlResult : Prop :=
  ∀ s (d : Word), (d.getLsbD 4 = true → exec (.wrInCtrl d) s = .next { s with inQ := [], inQueued := false }) ∧
    (d.getLsbD 4 = false → s.inQueued = false →
      exec (.wrInCtrl d) s = .next { s with inEp := d.extractLsb' 0 4, inQueued := true }) ∧
    (d.getLsbD 4 = false → s.inQueued = true → exec (.wrInCtrl d) s = .next s)

/-- 44 R250, R251: OUT_DATA shows the oldest committed byte, or a free byte; OUT_CTRL pops it with ADVANCE, and every
write of it writes the enable. -/
def Obligations.OutDataAndCtrlResults : Prop :=
  ∀ s, (∀ b rest, s.outQ = b :: rest →
      exec .rdOutData s = .next { s with readData := some (b.setWidth 32) } ∧
      ∀ d : Word, d.getLsbD 0 = true →
        exec (.wrOutCtrl d) s = .next { s with outQ := rest, outEn := d.getLsbD 1 }) ∧
    (s.outQ = [] →
      exec .rdOutData s = .next { s with readData := some ((Config.draw8 s.drawIdx).setWidth 32) }) ∧
    (∀ d : Word, d.getLsbD 0 = false ∨ s.outQ = [] → exec (.wrOutCtrl d) s = .next { s with outEn := d.getLsbD 1 })

/-! ### Outputs -/

/-- 40 R135: the stall policy, from the current enables, in the routes R_IN and R_OUT alone. -/
def Obligations.StallPolicy : Prop :=
  ∀ s, (∀ e, shouldStall s e .dirOut = !s.enOut.getLsbD e.toNat ∧ shouldStall s e .dirIn = !s.enIn.getLsbD e.toNat) ∧
    (∀ e d, shouldStall s e d = !(enableBitmap s).getLsbD (epKey e d)) ∧
    (s.route = .rIn → (outputs s).stall = shouldStall s s.curEp .dirIn) ∧
    (s.route = .rOut → (outputs s).stall = shouldStall s s.curEp .dirOut) ∧
    (s.route = .rSetup ∨ s.route = .rStatusIn ∨ s.route = .rStatusOut → (outputs s).stall = false)

/-- 40 R142: SETUP always-ACK: in route R_SETUP whatever the rest of the state, and for every SETUP, from any stage and
route, that is addressed to the device and that the debug bridge does not intercept. -/
def Obligations.SetupAlwaysAck : Prop :=
  (∀ s, s.route = .rSetup → (outputs s).arm = true ∧ (outputs s).stall = false ∧ handshake s = some .ack) ∧
  (∀ s addr ep, addr = (protocolFrame s).addrEff → debugIntercepts s ep = false →
    ∃ t, exec (.tokenSetup addr ep) s = .next t ∧ t.route = .rSetup ∧ handshake t = some .ack)

/-- 40 R143: stall determinism: every data token of a disabled endpoint and direction that is routed R_IN or R_OUT, among
them every one opened from IDLE; the SETUP and status routes are never stalled. -/
def Obligations.StallDeterminism : Prop :=
  (∀ s, s.route = .rIn → (enableBitmap s).getLsbD (2 * s.curEp.toNat + 1) = false →
    handshake s = some .stall ∧ (outputs s).arm = false) ∧
  (∀ s, s.route = .rOut → (enableBitmap s).getLsbD (2 * s.curEp.toNat) = false →
    handshake s = some .stall ∧ (outputs s).arm = false) ∧
  (∀ s, s.route = .rSetup ∨ s.route = .rStatusIn ∨ s.route = .rStatusOut → handshake s ≠ some .stall) ∧
  (∀ s t addr (ep : EpNum), exec (.tokenIn addr ep) s = .next t → t.route = .rIn →
    (enableBitmap s).getLsbD (2 * ep.toNat + 1) = false → handshake t = some .stall) ∧
  (∀ s t addr (ep : EpNum), exec (.tokenOut addr ep) s = .next t → t.route = .rOut →
    (enableBitmap s).getLsbD (2 * ep.toNat) = false → handshake t = some .stall) ∧
  (∀ s addr ep, s.route = .rWait → s.stage = .tokenCheck → addr = s.addrEff → debugIntercepts s ep = false →
    (∃ t, exec (.tokenIn addr ep) s = .next t ∧ t.route = .rIn) ∧
    (∃ t, exec (.tokenOut addr ep) s = .next t ∧ t.route = .rOut))

/-- 40 R140, R141; 10 R35, R37, R38; 43 R215: every output in every route (in R_DEBUG the five the bridge drives are free
values, log entry 5), and the handshake a core that samples them makes of them; in R_IN an enabled endpoint is answered
DATA1 or DATA0 by its toggle if it is the armed one, and else NAK. -/
def Obligations.OutputsByRoute : Prop :=
  ∀ s, let o := outputs s
    let inEnabled : Prop := s.enIn.getLsbD s.curEp.toNat = true
    let outEnabled : Prop := s.enOut.getLsbD s.curEp.toNat = true
    let armed : Prop := s.inQueued = true ∧ s.inEp = s.curEp
    (s.route = .rNone ∨ s.route = .rWait →
      o.arm = false ∧ o.stall = false ∧ o.dtb = false ∧ o.txHave = false ∧ handshake s = none) ∧
    (s.route = .rSetup ∨ s.route = .rStatusOut →
      o.arm = true ∧ o.stall = false ∧ o.dtb = false ∧ o.txHave = false ∧ handshake s = some .ack) ∧
    (s.route = .rIn → (o.stall = true ↔ ¬inEnabled) ∧ (o.arm = true ↔ inEnabled ∧ armed) ∧
      (o.txHave = true ↔ inEnabled ∧ armed ∧ s.inQ ≠ []) ∧
      (inEnabled → armed →
        handshake s = some (if s.dtb.getLsbD s.curEp.toNat = true then .data1 else .data0)) ∧
      (inEnabled → ¬armed → handshake s = some .nak) ∧ (¬inEnabled → handshake s = some .stall)) ∧
    (s.route = .rStatusIn → o.arm = true ∧ o.stall = false ∧
      (o.txHave = true ↔ s.inQueued = true ∧ s.inEp = 0 ∧ s.inQ ≠ []) ∧
      handshake s = some (if s.dtb.getLsbD s.curEp.toNat = true then .data1 else .data0)) ∧
    (s.route = .rIn ∨ s.route = .rStatusIn → o.dtb = s.dtb.getLsbD s.curEp.toNat) ∧
    (s.route = .rOut → (o.stall = true ↔ ¬outEnabled) ∧
      (o.arm = true ↔ outEnabled ∧ s.outEn = true ∧ ¬(s.outQ = [] ∧ s.outRx = []) ∧ s.outOvf = false) ∧
      o.dtb = false ∧ o.txHave = false ∧
      handshake s = some (if o.stall = true then .stall else if o.arm = true then .ack else .nak)) ∧
    (s.route = .rDebug → o.arm = Config.bridgeArm s.drawIdx ∧ o.stall = Config.bridgeStall s.drawIdx ∧
      o.dtb = Config.bridgeDtb s.drawIdx ∧ o.txHave = Config.bridgeTxHave s.drawIdx ∧
      o.txByte = Config.bridgeTxByte s.drawIdx ∧ handshake s = none) ∧
    (s.route ≠ .rDebug → (o.stall = true → o.arm = false) ∧ (o.txHave = false → o.txByte = 0) ∧
      ∀ b rest, s.inQ = b :: rest → o.txHave = true → o.txByte = b) ∧
    (o.rxSink = true ↔ s.route = .rSetup ∨ s.route = .rOut ∨ s.route = .rStatusOut) ∧
    o.reset = s.rstPulse ∧ o.address = s.addrEff ∧
    (o.irq = true ↔ ∃ k, k < 3 ∧ s.evPend.getLsbD k = true ∧ s.evEn.getLsbD k = true)

/-- 44 R244: after an OUT commit the enable is 0, and it stays so until OUT_CTRL is written with ENABLE = 1; while it is 0
every packet in R_OUT is NAKed, or stalled if the endpoint is disabled. With ENABLE = 1 and the endpoint enabled a
non-empty packet that fits is ACKed; one that lost a byte, or is zero-length and meets an empty FIFO, is NAKed. The status
OUT of a control read is ACKed whatever the enable. -/
def Obligations.OutRearm : Prop :=
  (∀ s, s.route = .rOut → ∃ t, exec (.txnEnd true) s = .next t ∧ t.outEn = false) ∧
  (∀ i s t, exec i s = .next t → s.outEn = false →
    (t.outEn = true ↔ ∃ d, i = .wrOutCtrl d ∧ d.getLsbD 1 = true)) ∧
  (∀ s, s.route = .rOut → s.enOut.getLsbD s.curEp.toNat = false → handshake s = some .stall) ∧
  (∀ s, s.route = .rOut → s.enOut.getLsbD s.curEp.toNat = true →
    (s.outEn = false → handshake s = some .nak) ∧
    (s.outEn = true → (s.outQ ≠ [] ∨ s.outRx ≠ []) → s.outOvf = false → handshake s = some .ack) ∧
    (s.outQ = [] → s.outRx = [] → handshake s = some .nak) ∧
    (s.outOvf = true → handshake s = some .nak)) ∧
  (∀ s, s.route = .rStatusOut → handshake s = some .ack)

/-! ### Whole-machine rules -/

/-- 20 R82, 45 R287, 70 R345: a CPU step never changes what the protocol agent owns. -/
def Obligations.CpuStepKeepsProtocolState : Prop :=
  ∀ i s t, i.agent = .control → exec i s = .next t →
    t.stage = s.stage ∧ t.route = s.route ∧ t.rstPulse = s.rstPulse ∧ t.curEp = s.curEp ∧ t.addrEff = s.addrEff ∧
    t.dtb = s.dtb ∧ t.errorCount = s.errorCount ∧ t.invalidStateCount = s.invalidStateCount ∧
    t.tokenWaitCount = s.tokenWaitCount ∧ t.setupBuf = s.setupBuf ∧ t.setupIdx = s.setupIdx ∧
    t.setupLen = s.setupLen ∧ t.setupIsIn = s.setupIsIn ∧ t.setupLenNz = s.setupLenNz ∧ t.setupEp = s.setupEp ∧
    t.setupValid = s.setupValid ∧ t.outRx = s.outRx ∧ t.outOvf = s.outOvf ∧ t.outIdle = s.outIdle ∧
    t.outEp = s.outEp ∧ t.debugActive = s.debugActive

/-- 20 R82: a protocol step never changes what the CPU owns, and on the shared fields keeps to its role: it only takes
from the front of the IN queue, only appends to the OUT queue, never arms, never enables OUT, never clears an event. -/
def Obligations.ProtocolStepKeepsCpuState : Prop :=
  ∀ i s t, i.agent = .protocol → exec i s = .next t →
    t.enOut = s.enOut ∧ t.enIn = s.enIn ∧ t.evEn = s.evEn ∧ t.inEp = s.inEp ∧
    (t.addrReg = s.addrReg ∨ (i = .brst ∧ t.addrReg = 0)) ∧
    t.inQ <:+ s.inQ ∧ s.outQ <+: t.outQ ∧ (t.inQueued = true → s.inQueued = true) ∧
    (t.outEn = true → s.outEn = true) ∧ s.evPend &&& t.evPend = s.evPend

/-- 60 R311, R312: after any step a pending bit is 1 exactly if the step was its event, or it was 1 and the step did not
write 1 to it. Enables play no part, and power-on reset clears the bits. -/
def Obligations.PendingBitsFollowTheirEvents : Prop :=
  State.reset.evPend = 0 ∧
  ∀ i s t, exec i s = .next t →
    let kept (k : Nat) : Prop := s.evPend.getLsbD k = true ∧ ¬∃ d, i = .wrEvPending d ∧ d.getLsbD k = true
    (t.evPend.getLsbD 0 = true ↔ (i = .txnEnd true ∧ s.route = .rSetup) ∨ kept 0) ∧
    (t.evPend.getLsbD 1 = true ↔
      (i = .txnEnd true ∧ (s.route = .rIn ∨ s.route = .rStatusIn) ∧ s.inQueued = true ∧ s.inEp = s.curEp) ∨ kept 1) ∧
    (t.evPend.getLsbD 2 = true ↔ (i = .txnEnd true ∧ s.route = .rOut) ∨ kept 2)

/-- 43 R210, R216: the toggle bit of every endpoint after any step: set by a SETUP commit on the endpoint, flipped by an IN
commit of the endpoint while it is the armed one, and kept by everything else. -/
def Obligations.ToggleChangesInTwoWays : Prop :=
  ∀ i s t (e : EpNum), exec i s = .next t →
    t.dtb.getLsbD e.toNat =
      if i = .txnEnd true ∧ s.route = .rSetup ∧ s.curEp = e then true
      else if i = .txnEnd true ∧ (s.route = .rIn ∨ s.route = .rStatusIn) ∧ s.curEp = e ∧ s.inQueued = true ∧ s.inEp = e
        then !s.dtb.getLsbD e.toNat
      else s.dtb.getLsbD e.toNat

/-- 60 R305: what each counter counts, and that nothing else changes it; a counter within `CTR_W` bits stays within them,
and power-on reset clears all three. -/
def Obligations.CountersOnlyCountTheirEvents : Prop :=
  (State.reset.errorCount = 0 ∧ State.reset.invalidStateCount = 0 ∧ State.reset.tokenWaitCount = 0) ∧
  ∀ i s t, exec i s = .next t →
    let bump (c : Word) : Word := if c.toNat < 2 ^ s.cfg.ctrW - 1 then c + 1 else c
    let invalid : Prop := ∃ pid addr ep, i = decodeToken pid addr ep ∧
      pid ≠ 0x1#4 ∧ pid ≠ 0x9#4 ∧ pid ≠ 0x5#4 ∧ pid ≠ 0xD#4
    t.errorCount = (if i = .err then bump s.errorCount else s.errorCount) ∧
    t.tokenWaitCount = (if i = .nop false ∧ s.route = .rWait then bump s.tokenWaitCount else s.tokenWaitCount) ∧
    (invalid → t.invalidStateCount = bump s.invalidStateCount) ∧
    (¬invalid → t.invalidStateCount = s.invalidStateCount) ∧
    (CounterInv s → CounterInv t)

/-- 45 R271, 70 R352: the latched address changes only at a protocol step that begins in IDLE, to the register's value,
or at BRST, to 0. -/
def Obligations.AddressIsLatchedInIdle : Prop :=
  ∀ i s t, exec i s = .next t → t.addrEff ≠ s.addrEff →
    i.agent = .protocol ∧ ((s.stage = .idle ∧ t.addrEff = s.addrReg) ∨ (i = .brst ∧ t.addrEff = 0))

/-- 10 R30, 40 R120, 60 R300: the reset output is 1 after a protocol step exactly if that step was an ERR. -/
def Obligations.ResetPulseIsOneStepPerError : Prop :=
  ∀ i s t, i.agent = .protocol → exec i s = .next t → ((outputs t).reset = true ↔ i = .err)

/-- 40 R141, 60 R330 T1 to T4, T7, T9: whatever word a core that keeps its contract gives, and whatever the CPU does, the
engine's route fits where the core stands: a SETUP the core may commit has its ten bytes (42 R193), and an OUT packet it
acknowledged lost none (44 R241). The contract as a hypothesis is log entry 20. -/
def Obligations.ContractKeepsPhaseInv : Prop :=
  ∀ p s i t, EngineInv s → PhaseInv p s → coreAllows p s i = true → exec i s = .next t →
    EngineInv t ∧ PhaseInv (coreAdvance p i t) t

/-- 44 R241, 60 R330 T1, T3, T4 (log entry 20): along any run from a state with no open transaction in which the transfer
core keeps its contract, an OUT packet that lost a byte is never committed: whenever the core may give END with C = 1 in
R_OUT, no byte of the packet was lost. -/
def Obligations.CommittedOutPacketIsWhole : Prop :=
  ∀ s t p, s.route = .rNone → ContractRun s .between t p →
    t.route = .rOut → coreAllows p t (.txnEnd true) = true → t.outOvf = false
end

