-- ==== Sys2Proof/Laws/State.lean ====
section
/-! SUPPORT. One lemma for each field and each named update of State, so that no later proof unfolds a record update. -/

namespace Sys2Proof.Machine

/-! ### The step takes a word -/

@[simp] theorem consume_cfg (rest : List InputWord) (s : State) : (consume rest s).cfg = s.cfg := rfl
@[simp] theorem consume_inputs (rest : List InputWord) (s : State) : (consume rest s).inputs = rest := rfl
@[simp] theorem consume_readData (rest : List InputWord) (s : State) : (consume rest s).readData = none := rfl
@[simp] theorem consume_drawIdx (rest : List InputWord) (s : State) : (consume rest s).drawIdx = s.drawIdx + 1 := rfl
@[simp] theorem consume_stage (rest : List InputWord) (s : State) : (consume rest s).stage = s.stage := rfl
@[simp] theorem consume_route (rest : List InputWord) (s : State) : (consume rest s).route = s.route := rfl
@[simp] theorem consume_curEp (rest : List InputWord) (s : State) : (consume rest s).curEp = s.curEp := rfl
@[simp] theorem consume_addrReg (rest : List InputWord) (s : State) : (consume rest s).addrReg = s.addrReg := rfl
@[simp] theorem consume_addrEff (rest : List InputWord) (s : State) : (consume rest s).addrEff = s.addrEff := rfl
@[simp] theorem consume_enOut (rest : List InputWord) (s : State) : (consume rest s).enOut = s.enOut := rfl
@[simp] theorem consume_enIn (rest : List InputWord) (s : State) : (consume rest s).enIn = s.enIn := rfl
@[simp] theorem consume_errorCount (rest : List InputWord) (s : State) : (consume rest s).errorCount = s.errorCount := rfl
@[simp] theorem consume_invalidStateCount (rest : List InputWord) (s : State) : (consume rest s).invalidStateCount = s.invalidStateCount := rfl
@[simp] theorem consume_tokenWaitCount (rest : List InputWord) (s : State) : (consume rest s).tokenWaitCount = s.tokenWaitCount := rfl
@[simp] theorem consume_debugActive (rest : List InputWord) (s : State) : (consume rest s).debugActive = s.debugActive := rfl
@[simp] theorem consume_rstPulse (rest : List InputWord) (s : State) : (consume rest s).rstPulse = s.rstPulse := rfl
@[simp] theorem consume_setupBuf (rest : List InputWord) (s : State) : (consume rest s).setupBuf = s.setupBuf := rfl
@[simp] theorem consume_setupIdx (rest : List InputWord) (s : State) : (consume rest s).setupIdx = s.setupIdx := rfl
@[simp] theorem consume_setupLen (rest : List InputWord) (s : State) : (consume rest s).setupLen = s.setupLen := rfl
@[simp] theorem consume_setupRd (rest : List InputWord) (s : State) : (consume rest s).setupRd = s.setupRd := rfl
@[simp] theorem consume_setupValid (rest : List InputWord) (s : State) : (consume rest s).setupValid = s.setupValid := rfl
@[simp] theorem consume_setupIsIn (rest : List InputWord) (s : State) : (consume rest s).setupIsIn = s.setupIsIn := rfl
@[simp] theorem consume_setupLenNz (rest : List InputWord) (s : State) : (consume rest s).setupLenNz = s.setupLenNz := rfl
@[simp] theorem consume_setupEp (rest : List InputWord) (s : State) : (consume rest s).setupEp = s.setupEp := rfl
@[simp] theorem consume_inQ (rest : List InputWord) (s : State) : (consume rest s).inQ = s.inQ := rfl
@[simp] theorem consume_inEp (rest : List InputWord) (s : State) : (consume rest s).inEp = s.inEp := rfl
@[simp] theorem consume_inQueued (rest : List InputWord) (s : State) : (consume rest s).inQueued = s.inQueued := rfl
@[simp] theorem consume_dtb (rest : List InputWord) (s : State) : (consume rest s).dtb = s.dtb := rfl
@[simp] theorem consume_outQ (rest : List InputWord) (s : State) : (consume rest s).outQ = s.outQ := rfl
@[simp] theorem consume_outRx (rest : List InputWord) (s : State) : (consume rest s).outRx = s.outRx := rfl
@[simp] theorem consume_outOvf (rest : List InputWord) (s : State) : (consume rest s).outOvf = s.outOvf := rfl
@[simp] theorem consume_outEn (rest : List InputWord) (s : State) : (consume rest s).outEn = s.outEn := rfl
@[simp] theorem consume_outIdle (rest : List InputWord) (s : State) : (consume rest s).outIdle = s.outIdle := rfl
@[simp] theorem consume_outEp (rest : List InputWord) (s : State) : (consume rest s).outEp = s.outEp := rfl
@[simp] theorem consume_evPend (rest : List InputWord) (s : State) : (consume rest s).evPend = s.evPend := rfl
@[simp] theorem consume_evEn (rest : List InputWord) (s : State) : (consume rest s).evEn = s.evEn := rfl

/-! ### SetupStart -/

@[simp] theorem setupStart_cfg (s : State) : (setupStart s).cfg = s.cfg := rfl
@[simp] theorem setupStart_inputs (s : State) : (setupStart s).inputs = s.inputs := rfl
@[simp] theorem setupStart_readData (s : State) : (setupStart s).readData = s.readData := rfl
@[simp] theorem setupStart_drawIdx (s : State) : (setupStart s).drawIdx = s.drawIdx := rfl
@[simp] theorem setupStart_stage (s : State) : (setupStart s).stage = s.stage := rfl
@[simp] theorem setupStart_route (s : State) : (setupStart s).route = s.route := rfl
@[simp] theorem setupStart_curEp (s : State) : (setupStart s).curEp = s.curEp := rfl
@[simp] theorem setupStart_addrReg (s : State) : (setupStart s).addrReg = s.addrReg := rfl
@[simp] theorem setupStart_addrEff (s : State) : (setupStart s).addrEff = s.addrEff := rfl
@[simp] theorem setupStart_enOut (s : State) : (setupStart s).enOut = s.enOut := rfl
@[simp] theorem setupStart_enIn (s : State) : (setupStart s).enIn = s.enIn := rfl
@[simp] theorem setupStart_errorCount (s : State) : (setupStart s).errorCount = s.errorCount := rfl
@[simp] theorem setupStart_invalidStateCount (s : State) : (setupStart s).invalidStateCount = s.invalidStateCount := rfl
@[simp] theorem setupStart_tokenWaitCount (s : State) : (setupStart s).tokenWaitCount = s.tokenWaitCount := rfl
@[simp] theorem setupStart_debugActive (s : State) : (setupStart s).debugActive = s.debugActive := rfl
@[simp] theorem setupStart_rstPulse (s : State) : (setupStart s).rstPulse = s.rstPulse := rfl
@[simp] theorem setupStart_setupBuf (s : State) : (setupStart s).setupBuf = s.setupBuf := rfl
@[simp] theorem setupStart_setupIdx (s : State) : (setupStart s).setupIdx = 0 := rfl
@[simp] theorem setupStart_setupLen (s : State) : (setupStart s).setupLen = 0 := rfl
@[simp] theorem setupStart_setupRd (s : State) : (setupStart s).setupRd = 0 := rfl
@[simp] theorem setupStart_setupValid (s : State) : (setupStart s).setupValid = false := rfl
@[simp] theorem setupStart_setupIsIn (s : State) : (setupStart s).setupIsIn = false := rfl
@[simp] theorem setupStart_setupLenNz (s : State) : (setupStart s).setupLenNz = false := rfl
@[simp] theorem setupStart_setupEp (s : State) : (setupStart s).setupEp = s.setupEp := rfl
@[simp] theorem setupStart_inQ (s : State) : (setupStart s).inQ = s.inQ := rfl
@[simp] theorem setupStart_inEp (s : State) : (setupStart s).inEp = s.inEp := rfl
@[simp] theorem setupStart_inQueued (s : State) : (setupStart s).inQueued = s.inQueued := rfl
@[simp] theorem setupStart_dtb (s : State) : (setupStart s).dtb = s.dtb := rfl
@[simp] theorem setupStart_outQ (s : State) : (setupStart s).outQ = s.outQ := rfl
@[simp] theorem setupStart_outRx (s : State) : (setupStart s).outRx = s.outRx := rfl
@[simp] theorem setupStart_outOvf (s : State) : (setupStart s).outOvf = s.outOvf := rfl
@[simp] theorem setupStart_outEn (s : State) : (setupStart s).outEn = s.outEn := rfl
@[simp] theorem setupStart_outIdle (s : State) : (setupStart s).outIdle = s.outIdle := rfl
@[simp] theorem setupStart_outEp (s : State) : (setupStart s).outEp = s.outEp := rfl
@[simp] theorem setupStart_evPend (s : State) : (setupStart s).evPend = s.evPend := rfl
@[simp] theorem setupStart_evEn (s : State) : (setupStart s).evEn = s.evEn := rfl

/-! ### OutClose -/

@[simp] theorem outClose_cfg (s : State) : (outClose s).cfg = s.cfg := rfl
@[simp] theorem outClose_inputs (s : State) : (outClose s).inputs = s.inputs := rfl
@[simp] theorem outClose_readData (s : State) : (outClose s).readData = s.readData := rfl
@[simp] theorem outClose_drawIdx (s : State) : (outClose s).drawIdx = s.drawIdx := rfl
@[simp] theorem outClose_stage (s : State) : (outClose s).stage = s.stage := rfl
@[simp] theorem outClose_route (s : State) : (outClose s).route = s.route := rfl
@[simp] theorem outClose_curEp (s : State) : (outClose s).curEp = s.curEp := rfl
@[simp] theorem outClose_addrReg (s : State) : (outClose s).addrReg = s.addrReg := rfl
@[simp] theorem outClose_addrEff (s : State) : (outClose s).addrEff = s.addrEff := rfl
@[simp] theorem outClose_enOut (s : State) : (outClose s).enOut = s.enOut := rfl
@[simp] theorem outClose_enIn (s : State) : (outClose s).enIn = s.enIn := rfl
@[simp] theorem outClose_errorCount (s : State) : (outClose s).errorCount = s.errorCount := rfl
@[simp] theorem outClose_invalidStateCount (s : State) : (outClose s).invalidStateCount = s.invalidStateCount := rfl
@[simp] theorem outClose_tokenWaitCount (s : State) : (outClose s).tokenWaitCount = s.tokenWaitCount := rfl
@[simp] theorem outClose_debugActive (s : State) : (outClose s).debugActive = s.debugActive := rfl
@[simp] theorem outClose_rstPulse (s : State) : (outClose s).rstPulse = s.rstPulse := rfl
@[simp] theorem outClose_setupBuf (s : State) : (outClose s).setupBuf = s.setupBuf := rfl
@[simp] theorem outClose_setupIdx (s : State) : (outClose s).setupIdx = s.setupIdx := rfl
@[simp] theorem outClose_setupLen (s : State) : (outClose s).setupLen = s.setupLen := rfl
@[simp] theorem outClose_setupRd (s : State) : (outClose s).setupRd = s.setupRd := rfl
@[simp] theorem outClose_setupValid (s : State) : (outClose s).setupValid = s.setupValid := rfl
@[simp] theorem outClose_setupIsIn (s : State) : (outClose s).setupIsIn = s.setupIsIn := rfl
@[simp] theorem outClose_setupLenNz (s : State) : (outClose s).setupLenNz = s.setupLenNz := rfl
@[simp] theorem outClose_setupEp (s : State) : (outClose s).setupEp = s.setupEp := rfl
@[simp] theorem outClose_inQ (s : State) : (outClose s).inQ = s.inQ := rfl
@[simp] theorem outClose_inEp (s : State) : (outClose s).inEp = s.inEp := rfl
@[simp] theorem outClose_inQueued (s : State) : (outClose s).inQueued = s.inQueued := rfl
@[simp] theorem outClose_dtb (s : State) : (outClose s).dtb = s.dtb := rfl
@[simp] theorem outClose_outQ (s : State) : (outClose s).outQ = s.outQ := rfl
@[simp] theorem outClose_outRx (s : State) : (outClose s).outRx = [] := rfl
@[simp] theorem outClose_outOvf (s : State) : (outClose s).outOvf = false := rfl
@[simp] theorem outClose_outEn (s : State) : (outClose s).outEn = s.outEn := rfl
@[simp] theorem outClose_outIdle (s : State) : (outClose s).outIdle = true := rfl
@[simp] theorem outClose_outEp (s : State) : (outClose s).outEp = s.outEp := rfl
@[simp] theorem outClose_evPend (s : State) : (outClose s).evPend = s.evPend := rfl
@[simp] theorem outClose_evEn (s : State) : (outClose s).evEn = s.evEn := rfl

/-! ### The flush of IN_CTRL -/

@[simp] theorem inFlush_cfg (s : State) : (inFlush s).cfg = s.cfg := rfl
@[simp] theorem inFlush_inputs (s : State) : (inFlush s).inputs = s.inputs := rfl
@[simp] theorem inFlush_readData (s : State) : (inFlush s).readData = s.readData := rfl
@[simp] theorem inFlush_drawIdx (s : State) : (inFlush s).drawIdx = s.drawIdx := rfl
@[simp] theorem inFlush_stage (s : State) : (inFlush s).stage = s.stage := rfl
@[simp] theorem inFlush_route (s : State) : (inFlush s).route = s.route := rfl
@[simp] theorem inFlush_curEp (s : State) : (inFlush s).curEp = s.curEp := rfl
@[simp] theorem inFlush_addrReg (s : State) : (inFlush s).addrReg = s.addrReg := rfl
@[simp] theorem inFlush_addrEff (s : State) : (inFlush s).addrEff = s.addrEff := rfl
@[simp] theorem inFlush_enOut (s : State) : (inFlush s).enOut = s.enOut := rfl
@[simp] theorem inFlush_enIn (s : State) : (inFlush s).enIn = s.enIn := rfl
@[simp] theorem inFlush_errorCount (s : State) : (inFlush s).errorCount = s.errorCount := rfl
@[simp] theorem inFlush_invalidStateCount (s : State) : (inFlush s).invalidStateCount = s.invalidStateCount := rfl
@[simp] theorem inFlush_tokenWaitCount (s : State) : (inFlush s).tokenWaitCount = s.tokenWaitCount := rfl
@[simp] theorem inFlush_debugActive (s : State) : (inFlush s).debugActive = s.debugActive := rfl
@[simp] theorem inFlush_rstPulse (s : State) : (inFlush s).rstPulse = s.rstPulse := rfl
@[simp] theorem inFlush_setupBuf (s : State) : (inFlush s).setupBuf = s.setupBuf := rfl
@[simp] theorem inFlush_setupIdx (s : State) : (inFlush s).setupIdx = s.setupIdx := rfl
@[simp] theorem inFlush_setupLen (s : State) : (inFlush s).setupLen = s.setupLen := rfl
@[simp] theorem inFlush_setupRd (s : State) : (inFlush s).setupRd = s.setupRd := rfl
@[simp] theorem inFlush_setupValid (s : State) : (inFlush s).setupValid = s.setupValid := rfl
@[simp] theorem inFlush_setupIsIn (s : State) : (inFlush s).setupIsIn = s.setupIsIn := rfl
@[simp] theorem inFlush_setupLenNz (s : State) : (inFlush s).setupLenNz = s.setupLenNz := rfl
@[simp] theorem inFlush_setupEp (s : State) : (inFlush s).setupEp = s.setupEp := rfl
@[simp] theorem inFlush_inQ (s : State) : (inFlush s).inQ = [] := rfl
@[simp] theorem inFlush_inEp (s : State) : (inFlush s).inEp = s.inEp := rfl
@[simp] theorem inFlush_inQueued (s : State) : (inFlush s).inQueued = false := rfl
@[simp] theorem inFlush_dtb (s : State) : (inFlush s).dtb = s.dtb := rfl
@[simp] theorem inFlush_outQ (s : State) : (inFlush s).outQ = s.outQ := rfl
@[simp] theorem inFlush_outRx (s : State) : (inFlush s).outRx = s.outRx := rfl
@[simp] theorem inFlush_outOvf (s : State) : (inFlush s).outOvf = s.outOvf := rfl
@[simp] theorem inFlush_outEn (s : State) : (inFlush s).outEn = s.outEn := rfl
@[simp] theorem inFlush_outIdle (s : State) : (inFlush s).outIdle = s.outIdle := rfl
@[simp] theorem inFlush_outEp (s : State) : (inFlush s).outEp = s.outEp := rfl
@[simp] theorem inFlush_evPend (s : State) : (inFlush s).evPend = s.evPend := rfl
@[simp] theorem inFlush_evEn (s : State) : (inFlush s).evEn = s.evEn := rfl

/-! ### DebugEnter -/

@[simp] theorem debugEnter_cfg (s : State) : (debugEnter s).cfg = s.cfg := rfl
@[simp] theorem debugEnter_inputs (s : State) : (debugEnter s).inputs = s.inputs := rfl
@[simp] theorem debugEnter_readData (s : State) : (debugEnter s).readData = s.readData := rfl
@[simp] theorem debugEnter_drawIdx (s : State) : (debugEnter s).drawIdx = s.drawIdx := rfl
@[simp] theorem debugEnter_stage (s : State) : (debugEnter s).stage = .debug := rfl
@[simp] theorem debugEnter_route (s : State) : (debugEnter s).route = .rDebug := rfl
@[simp] theorem debugEnter_curEp (s : State) : (debugEnter s).curEp = 0 := rfl
@[simp] theorem debugEnter_addrReg (s : State) : (debugEnter s).addrReg = s.addrReg := rfl
@[simp] theorem debugEnter_addrEff (s : State) : (debugEnter s).addrEff = s.addrEff := rfl
@[simp] theorem debugEnter_enOut (s : State) : (debugEnter s).enOut = s.enOut := rfl
@[simp] theorem debugEnter_enIn (s : State) : (debugEnter s).enIn = s.enIn := rfl
@[simp] theorem debugEnter_errorCount (s : State) : (debugEnter s).errorCount = s.errorCount := rfl
@[simp] theorem debugEnter_invalidStateCount (s : State) : (debugEnter s).invalidStateCount = s.invalidStateCount := rfl
@[simp] theorem debugEnter_tokenWaitCount (s : State) : (debugEnter s).tokenWaitCount = s.tokenWaitCount := rfl
@[simp] theorem debugEnter_debugActive (s : State) : (debugEnter s).debugActive = s.debugActive := rfl
@[simp] theorem debugEnter_rstPulse (s : State) : (debugEnter s).rstPulse = s.rstPulse := rfl
@[simp] theorem debugEnter_setupBuf (s : State) : (debugEnter s).setupBuf = s.setupBuf := rfl
@[simp] theorem debugEnter_setupIdx (s : State) : (debugEnter s).setupIdx = s.setupIdx := rfl
@[simp] theorem debugEnter_setupLen (s : State) : (debugEnter s).setupLen = s.setupLen := rfl
@[simp] theorem debugEnter_setupRd (s : State) : (debugEnter s).setupRd = s.setupRd := rfl
@[simp] theorem debugEnter_setupValid (s : State) : (debugEnter s).setupValid = s.setupValid := rfl
@[simp] theorem debugEnter_setupIsIn (s : State) : (debugEnter s).setupIsIn = s.setupIsIn := rfl
@[simp] theorem debugEnter_setupLenNz (s : State) : (debugEnter s).setupLenNz = s.setupLenNz := rfl
@[simp] theorem debugEnter_setupEp (s : State) : (debugEnter s).setupEp = s.setupEp := rfl
@[simp] theorem debugEnter_inQ (s : State) : (debugEnter s).inQ = s.inQ := rfl
@[simp] theorem debugEnter_inEp (s : State) : (debugEnter s).inEp = s.inEp := rfl
@[simp] theorem debugEnter_inQueued (s : State) : (debugEnter s).inQueued = s.inQueued := rfl
@[simp] theorem debugEnter_dtb (s : State) : (debugEnter s).dtb = s.dtb := rfl
@[simp] theorem debugEnter_outQ (s : State) : (debugEnter s).outQ = s.outQ := rfl
@[simp] theorem debugEnter_outRx (s : State) : (debugEnter s).outRx = s.outRx := rfl
@[simp] theorem debugEnter_outOvf (s : State) : (debugEnter s).outOvf = s.outOvf := rfl
@[simp] theorem debugEnter_outEn (s : State) : (debugEnter s).outEn = s.outEn := rfl
@[simp] theorem debugEnter_outIdle (s : State) : (debugEnter s).outIdle = s.outIdle := rfl
@[simp] theorem debugEnter_outEp (s : State) : (debugEnter s).outEp = s.outEp := rfl
@[simp] theorem debugEnter_evPend (s : State) : (debugEnter s).evPend = s.evPend := rfl
@[simp] theorem debugEnter_evEn (s : State) : (debugEnter s).evEn = s.evEn := rfl

/-! ### The frame of a protocol step -/

@[simp] theorem protocolFrame_cfg (s : State) : (protocolFrame s).cfg = s.cfg := by
  unfold protocolFrame; split <;> simp_all
@[simp] theorem protocolFrame_inputs (s : State) : (protocolFrame s).inputs = s.inputs := by
  unfold protocolFrame; split <;> simp_all
@[simp] theorem protocolFrame_readData (s : State) : (protocolFrame s).readData = s.readData := by
  unfold protocolFrame; split <;> simp_all
@[simp] theorem protocolFrame_drawIdx (s : State) : (protocolFrame s).drawIdx = s.drawIdx := by
  unfold protocolFrame; split <;> simp_all
@[simp] theorem protocolFrame_stage (s : State) : (protocolFrame s).stage = s.stage := by
  unfold protocolFrame; split <;> simp_all
@[simp] theorem protocolFrame_route (s : State) : (protocolFrame s).route = s.route := by
  unfold protocolFrame; split <;> simp_all
@[simp] theorem protocolFrame_curEp (s : State) : (protocolFrame s).curEp = s.curEp := by
  unfold protocolFrame; split <;> simp_all
@[simp] theorem protocolFrame_addrReg (s : State) : (protocolFrame s).addrReg = s.addrReg := by
  unfold protocolFrame; split <;> simp_all
@[simp] theorem protocolFrame_addrEff (s : State) : (protocolFrame s).addrEff = if s.stage = .idle then s.addrReg else s.addrEff := by
  unfold protocolFrame; split <;> simp_all
@[simp] theorem protocolFrame_enOut (s : State) : (protocolFrame s).enOut = s.enOut := by
  unfold protocolFrame; split <;> simp_all
@[simp] theorem protocolFrame_enIn (s : State) : (protocolFrame s).enIn = s.enIn := by
  unfold protocolFrame; split <;> simp_all
@[simp] theorem protocolFrame_errorCount (s : State) : (protocolFrame s).errorCount = s.errorCount := by
  unfold protocolFrame; split <;> simp_all
@[simp] theorem protocolFrame_invalidStateCount (s : State) : (protocolFrame s).invalidStateCount = s.invalidStateCount := by
  unfold protocolFrame; split <;> simp_all
@[simp] theorem protocolFrame_tokenWaitCount (s : State) : (protocolFrame s).tokenWaitCount = s.tokenWaitCount := by
  unfold protocolFrame; split <;> simp_all
@[simp] theorem protocolFrame_debugActive (s : State) : (protocolFrame s).debugActive = s.debugActive := by
  unfold protocolFrame; split <;> simp_all
@[simp] theorem protocolFrame_rstPulse (s : State) : (protocolFrame s).rstPulse = false := by
  unfold protocolFrame; split <;> simp_all
@[simp] theorem protocolFrame_setupBuf (s : State) : (protocolFrame s).setupBuf = s.setupBuf := by
  unfold protocolFrame; split <;> simp_all
@[simp] theorem protocolFrame_setupIdx (s : State) : (protocolFrame s).setupIdx = if s.stage = .idle then 0 else s.setupIdx := by
  unfold protocolFrame; split <;> simp_all
@[simp] theorem protocolFrame_setupLen (s : State) : (protocolFrame s).setupLen = s.setupLen := by
  unfold protocolFrame; split <;> simp_all
@[simp] theorem protocolFrame_setupRd (s : State) : (protocolFrame s).setupRd = s.setupRd := by
  unfold protocolFrame; split <;> simp_all
@[simp] theorem protocolFrame_setupValid (s : State) : (protocolFrame s).setupValid = s.setupValid := by
  unfold protocolFrame; split <;> simp_all
@[simp] theorem protocolFrame_setupIsIn (s : State) : (protocolFrame s).setupIsIn = s.setupIsIn := by
  unfold protocolFrame; split <;> simp_all
@[simp] theorem protocolFrame_setupLenNz (s : State) : (protocolFrame s).setupLenNz = s.setupLenNz := by
  unfold protocolFrame; split <;> simp_all
@[simp] theorem protocolFrame_setupEp (s : State) : (protocolFrame s).setupEp = s.setupEp := by
  unfold protocolFrame; split <;> simp_all
@[simp] theorem protocolFrame_inQ (s : State) : (protocolFrame s).inQ = s.inQ := by
  unfold protocolFrame; split <;> simp_all
@[simp] theorem protocolFrame_inEp (s : State) : (protocolFrame s).inEp = s.inEp := by
  unfold protocolFrame; split <;> simp_all
@[simp] theorem protocolFrame_inQueued (s : State) : (protocolFrame s).inQueued = s.inQueued := by
  unfold protocolFrame; split <;> simp_all
@[simp] theorem protocolFrame_dtb (s : State) : (protocolFrame s).dtb = s.dtb := by
  unfold protocolFrame; split <;> simp_all
@[simp] theorem protocolFrame_outQ (s : State) : (protocolFrame s).outQ = s.outQ := by
  unfold protocolFrame; split <;> simp_all
@[simp] theorem protocolFrame_outRx (s : State) : (protocolFrame s).outRx = s.outRx := by
  unfold protocolFrame; split <;> simp_all
@[simp] theorem protocolFrame_outOvf (s : State) : (protocolFrame s).outOvf = s.outOvf := by
  unfold protocolFrame; split <;> simp_all
@[simp] theorem protocolFrame_outEn (s : State) : (protocolFrame s).outEn = s.outEn := by
  unfold protocolFrame; split <;> simp_all
@[simp] theorem protocolFrame_outIdle (s : State) : (protocolFrame s).outIdle = s.outIdle := by
  unfold protocolFrame; split <;> simp_all
@[simp] theorem protocolFrame_outEp (s : State) : (protocolFrame s).outEp = s.outEp := by
  unfold protocolFrame; split <;> simp_all
@[simp] theorem protocolFrame_evPend (s : State) : (protocolFrame s).evPend = s.evPend := by
  unfold protocolFrame; split <;> simp_all
@[simp] theorem protocolFrame_evEn (s : State) : (protocolFrame s).evEn = s.evEn := by
  unfold protocolFrame; split <;> simp_all

end Sys2Proof.Machine
end

