-- ==== Sys2Proof/Laws/Ops.lean ====
section
/-! SUPPORT. One lemma for each shared operation that says everything it does; later proofs cite these and do not unfold
the operation. -/

namespace Sys2Proof.Machine

/-! ### Counters -/

theorem ctrMax_lt (p : Config.Params) : p.ctrMax < 2 ^ 32 := by
  have h : p.ctrW ≤ 32 := by have := p.ctrWPred.isLt; simp only [Config.Params.ctrW]; omega
  have h2 : 2 ^ p.ctrW ≤ 2 ^ 32 := Nat.pow_le_pow_right (by decide) h
  have h3 : 0 < 2 ^ p.ctrW := Nat.pow_pos (by decide)
  simp only [Config.Params.ctrMax]
  omega

/-- A counter within its width counts by one, or stays at its maximum (10 R28). -/
theorem satInc_toNat (p : Config.Params) (c : Word) (h : c.toNat ≤ p.ctrMax) :
    (satInc p c).toNat = min (c.toNat + 1) p.ctrMax := by
  have hm := ctrMax_lt p
  unfold satInc
  split
  · rw [BitVec.toNat_add]; simp; omega
  · omega

theorem satInc_le_ctrMax (p : Config.Params) (c : Word) (h : c.toNat ≤ p.ctrMax) :
    (satInc p c).toNat ≤ p.ctrMax := by
  rw [satInc_toNat p c h]; omega

theorem le_satInc (p : Config.Params) (c : Word) (h : c.toNat ≤ p.ctrMax) : c ≤ satInc p c := by
  rw [BitVec.le_def, satInc_toNat p c h]; omega

/-! ### Endpoint vectors -/

/-- Read after write of an endpoint vector. -/
theorem epBit_setEpBit (v : EpVec) (e f : EpNum) (b : Bool) :
    epBit (setEpBit v e b) f = if f = e then b else epBit v f := by
  have hb : (1#16 <<< e.toNat).getLsbD f.toNat = decide (f = e) := by revert e f; decide
  have hf : decide (f.toNat < 16) = true := decide_eq_true f.isLt
  cases b <;> simp only [epBit, setEpBit, if_true, Bool.false_eq_true, if_false, BitVec.getLsbD_or, BitVec.getLsbD_and,
    BitVec.getLsbD_not, hb, hf, Bool.true_and] <;> split <;> simp_all

/-! ### The forms of a step -/

theorem protocolStep_eq_next {event : State → State} {s t : State} :
    protocolStep event s = .next t ↔ t = event (protocolFrame s) := by
  simp [protocolStep, eq_comm]

/-- The frame as one record update (40 R120). -/
theorem protocolFrame_eq (s : State) :
    protocolFrame s = { s with
      rstPulse := false
      addrEff := if s.stage = .idle then s.addrReg else s.addrEff
      setupIdx := if s.stage = .idle then 0 else s.setupIdx } := by
  unfold protocolFrame; split <;> rfl

theorem protocolFrame_of_not_idle {s : State} (h : s.stage ≠ .idle) :
    protocolFrame s = { s with rstPulse := false } := by
  simp [protocolFrame, h]

/-- The frame does nothing to a state whose reset output is low and whose stage is not IDLE. -/
theorem protocolFrame_eq_self {s : State} (h : s.stage ≠ .idle) (hp : s.rstPulse = false) :
    protocolFrame s = s := by
  rw [protocolFrame_of_not_idle h, ← hp]

@[simp] theorem cpuRead_eq (d : Word) (s : State) : cpuRead d s = .next { s with readData := some d } := rfl

@[simp] theorem cpuWrite_eq (write : State → State) (s : State) : cpuWrite write s = .next (write s) := rfl

@[simp] theorem cpuIgnore_eq (s : State) : cpuIgnore s = .next s := rfl

@[simp] theorem refuseReserved_eq : refuseReserved = .refused .reservedEventKind := rfl

/-! ### Ending, abandoning and opening a transaction -/

theorem leaveStage_eq (stage : Stage) (s : State) :
    leaveStage stage s = { s with stage := if s.stage = stage then .idle else s.stage } := by
  unfold leaveStage; split <;> simp_all

@[simp] theorem endTxn_route (s : State) (c : Bool) : (endTxn s c).route = .rNone := rfl

theorem endTxn_rNone {s : State} (c : Bool) (h : s.route = .rNone) : endTxn s c = s := by
  cases s; cases h; rfl

theorem endTxn_rWait {s : State} (c : Bool) (h : s.route = .rWait) :
    endTxn s c = { s with route := .rNone, stage := if s.stage = .tokenCheck then .idle else s.stage } := by
  simp [endTxn, endRoute, h, leaveStage_eq]

theorem endTxn_rSetup_commit {s : State} (h : s.route = .rSetup) :
    endTxn s true = { s with
      setupValid := true, setupLen := s.setupIdx, setupRd := 0, setupEp := s.curEp,
      dtb := setEpBit s.dtb s.curEp true, evPend := s.evPend ||| evSetup, stage := setupNext s, route := .rNone } := by
  simp [endTxn, endRoute, h, setupEnd]

theorem endTxn_rSetup_uncommitted {s : State} (h : s.route = .rSetup) :
    endTxn s false = { s with stage := .idle, route := .rNone } := by
  simp [endTxn, endRoute, h, setupEnd]

theorem inEnd_eq (s : State) (c : Bool) :
    inEnd s c = { s with
      dtb := if c && inResp s s.curEp then setEpBit s.dtb s.curEp (!epBit s.dtb s.curEp) else s.dtb
      inQueued := if c && inResp s s.curEp then false else s.inQueued
      evPend := if c && inResp s s.curEp then s.evPend ||| evIn else s.evPend } := by
  unfold inEnd; split <;> rfl

theorem endTxn_rIn {s : State} (c : Bool) (h : s.route = .rIn) :
    endTxn s c = { inEnd s c with
      route := .rNone, stage := if s.stage = .genericIn then .idle else s.stage } := by
  simp [endTxn, endRoute, h, leaveStage_eq, inEnd_eq]

theorem outEnd_commit (s : State) :
    outEnd s true = { s with
      outQ := s.outQ ++ s.outRx, outEn := false, outEp := s.curEp, evPend := s.evPend ||| evOut,
      outRx := [], outOvf := false, outIdle := true } := rfl

theorem outEnd_uncommitted (s : State) :
    outEnd s false = { s with outRx := [], outOvf := false, outIdle := true } := rfl

theorem endTxn_rOut {s : State} (c : Bool) (h : s.route = .rOut) :
    endTxn s c = { outEnd s c with
      route := .rNone, stage := if s.stage = .genericOut then .idle else s.stage } := by
  cases c <;> simp [endTxn, endRoute, h, leaveStage_eq, outEnd_commit, outEnd_uncommitted]

theorem endTxn_rStatusIn {s : State} (c : Bool) (h : s.route = .rStatusIn) :
    endTxn s c = { inEnd s c with route := .rNone, stage := .idle } := by
  simp [endTxn, endRoute, h]

theorem endTxn_rStatusOut {s : State} (c : Bool) (h : s.route = .rStatusOut) :
    endTxn s c = { s with route := .rNone, stage := .idle } := by
  simp [endTxn, endRoute, h]

theorem endTxn_rDebug {s : State} (c : Bool) (h : s.route = .rDebug) :
    endTxn s c = { s with route := .rNone, stage := .idle } := by
  simp [endTxn, endRoute, h]

/-- What EndTxn never touches, whatever the route and C. -/
theorem endTxn_frame (s : State) (c : Bool) :
    ∃ stage valid len rd sep dtb queued pend outQ outEn outEp outRx outOvf outIdle,
      endTxn s c = { s with
        route := .rNone, stage := stage, setupValid := valid, setupLen := len, setupRd := rd, setupEp := sep,
        dtb := dtb, inQueued := queued, evPend := pend, outQ := outQ, outEn := outEn, outEp := outEp,
        outRx := outRx, outOvf := outOvf, outIdle := outIdle } := by
  cases h : s.route
  · exact ⟨_, _, _, _, _, _, _, _, _, _, _, _, _, _, by rw [endTxn_rNone c h, ← h]⟩
  · exact ⟨_, _, _, _, _, _, _, _, _, _, _, _, _, _, by rw [endTxn_rWait c h]⟩
  · cases c
    · exact ⟨_, _, _, _, _, _, _, _, _, _, _, _, _, _, by rw [endTxn_rSetup_uncommitted h]⟩
    · exact ⟨_, _, _, _, _, _, _, _, _, _, _, _, _, _, by rw [endTxn_rSetup_commit h]⟩
  · exact ⟨_, _, _, _, _, _, _, _, _, _, _, _, _, _, by rw [endTxn_rIn c h, inEnd_eq]⟩
  · cases c
    · exact ⟨_, _, _, _, _, _, _, _, _, _, _, _, _, _, by rw [endTxn_rOut false h, outEnd_uncommitted]⟩
    · exact ⟨_, _, _, _, _, _, _, _, _, _, _, _, _, _, by rw [endTxn_rOut true h, outEnd_commit]⟩
  · exact ⟨_, _, _, _, _, _, _, _, _, _, _, _, _, _, by rw [endTxn_rStatusIn c h, inEnd_eq]⟩
  · exact ⟨_, _, _, _, _, _, _, _, _, _, _, _, _, _, by rw [endTxn_rStatusOut c h]⟩
  · exact ⟨_, _, _, _, _, _, _, _, _, _, _, _, _, _, by rw [endTxn_rDebug c h]⟩

/-- What EndTxn without commit changes, whatever the route: nothing is exposed (40 R122). -/
theorem endTxn_false_frame (s : State) :
    ∃ stage outRx outOvf outIdle, endTxn s false = { s with
      route := .rNone, stage := stage, outRx := outRx, outOvf := outOvf, outIdle := outIdle } := by
  cases h : s.route
  · exact ⟨_, _, _, _, by rw [endTxn_rNone false h, ← h]⟩
  · exact ⟨_, _, _, _, by rw [endTxn_rWait false h]⟩
  · exact ⟨_, _, _, _, by rw [endTxn_rSetup_uncommitted h]⟩
  · exact ⟨_, _, _, _, by rw [endTxn_rIn false h]; rfl⟩
  · exact ⟨_, _, _, _, by rw [endTxn_rOut false h, outEnd_uncommitted]⟩
  · exact ⟨_, _, _, _, by rw [endTxn_rStatusIn false h]; rfl⟩
  · exact ⟨_, _, _, _, by rw [endTxn_rStatusOut false h]⟩
  · exact ⟨_, _, _, _, by rw [endTxn_rDebug false h]⟩

/-- Abandoning is ending without commit, which does nothing where no transaction is open. -/
theorem abandonOpen_eq (s : State) : abandonOpen s = endTxn s false := by
  unfold abandonOpen
  split
  · next h => exact (endTxn_rNone false h).symm
  · rfl

/-- StartTxn as one record update of the abandoned state (40 R121). -/
theorem startTxn_eq (s : State) :
    startTxn s = { endTxn s false with
      route := .rWait
      stage := if (endTxn s false).stage = .idle then .tokenCheck else (endTxn s false).stage } := by
  simp only [startTxn, abandonOpen_eq]

theorem startTxn_frame (s : State) :
    ∃ stage outRx outOvf outIdle, startTxn s = { s with
      route := .rWait, stage := stage, outRx := outRx, outOvf := outOvf, outIdle := outIdle } := by
  obtain ⟨_, _, _, _, h⟩ := endTxn_false_frame s
  exact ⟨_, _, _, _, by rw [startTxn_eq, h]⟩

theorem startTxn_stage_ne_idle (s : State) : (startTxn s).stage ≠ .idle := by
  rw [startTxn_eq]; dsimp only; split <;> simp_all

theorem startTxn_rstPulse (s : State) : (startTxn s).rstPulse = s.rstPulse := by
  obtain ⟨_, _, _, _, _, _, _, _, _, _, _, _, _, _, h⟩ := endTxn_frame s false
  rw [startTxn_eq, h]

/-- Abandon is END without commit, and then IDLE (60 R300). -/
theorem abandon_eq (s : State) : abandon s = { endTxn s false with stage := .idle } := rfl

theorem tokenPrelude_of_wait {s : State} (h : s.route = .rWait) : tokenPrelude s = s := by
  simp [tokenPrelude, h]

theorem tokenPrelude_frame (s : State) :
    ∃ stage outRx outOvf outIdle, tokenPrelude s = { s with
      route := .rWait, stage := stage, outRx := outRx, outOvf := outOvf, outIdle := outIdle } := by
  unfold tokenPrelude; split
  · next h => exact ⟨_, _, _, _, by rw [← h]⟩
  · exact startTxn_frame s

theorem tokenPrelude_route (s : State) : (tokenPrelude s).route = .rWait := by
  unfold tokenPrelude; split
  · assumption
  · rfl

theorem tokenIgnored_eq (s : State) :
    tokenIgnored s = { s with route := .rNone, stage := if s.stage = .tokenCheck then .idle else s.stage } := by
  simp [tokenIgnored, leaveStage_eq]

/-- The three things an addressed token can do after its prelude (40 R125). -/
theorem addressedToken_cases (accept : EpNum → State → State) (addr : DevAddr) (ep : EpNum) (s : State) :
    (addr ≠ (tokenPrelude s).addrEff ∧ addressedToken accept addr ep s = tokenIgnored (tokenPrelude s)) ∨
    (addr = (tokenPrelude s).addrEff ∧ debugIntercepts (tokenPrelude s) ep = true ∧
      addressedToken accept addr ep s = debugEnter (tokenPrelude s)) ∨
    (addr = (tokenPrelude s).addrEff ∧ debugIntercepts (tokenPrelude s) ep = false ∧
      addressedToken accept addr ep s = accept ep (tokenPrelude s)) := by
  unfold addressedToken
  by_cases h : addr = (tokenPrelude s).addrEff
  · cases hd : debugIntercepts (tokenPrelude s) ep <;> simp_all
  · simp_all

/-- A token awaited and accepted (40 R125). -/
theorem addressedToken_accepted {s : State} (accept : EpNum → State → State) {addr : DevAddr} {ep : EpNum}
    (hr : s.route = .rWait) (ha : addr = s.addrEff) (hd : debugIntercepts s ep = false) :
    addressedToken accept addr ep s = accept ep s := by
  simp [addressedToken, tokenPrelude_of_wait hr, ha, hd]

/-- A token awaited and taken by the debug bridge (41 R173). -/
theorem addressedToken_intercepted {s : State} (accept : EpNum → State → State) {addr : DevAddr} {ep : EpNum}
    (hr : s.route = .rWait) (ha : addr = s.addrEff) (hd : debugIntercepts s ep = true) :
    addressedToken accept addr ep s = debugEnter s := by
  simp [addressedToken, tokenPrelude_of_wait hr, ha, hd]

/-- A token awaited and addressed to another device (40 R128). -/
theorem addressedToken_mismatch {s : State} (accept : EpNum → State → State) {addr : DevAddr} {ep : EpNum}
    (hr : s.route = .rWait) (ha : addr ≠ s.addrEff) : addressedToken accept addr ep s = tokenIgnored s := by
  simp [addressedToken, tokenPrelude_of_wait hr, ha]

/-- RouteData changes the route and the stage alone (41 R160). -/
theorem routeData_frame (s : State) (d : Dir) :
    ∃ route stage, routeData s d = { s with route := route, stage := stage } := by
  unfold routeData
  split
  · cases d <;> exact ⟨_, _, rfl⟩
  · split
    · exact ⟨_, _, rfl⟩
    · split <;> exact ⟨_, _, rfl⟩

/-! ### Handler flags -/

theorem setupHave_iff (s : State) : setupHave s = true ↔ s.setupValid = true ∧ s.setupRd.val < s.setupLen.val := by
  simp [setupHave]

/-- SETUP_DATA shows a byte exactly while HAVE is 1. -/
theorem setupHead_isSome (s : State) : (setupHead s).isSome = setupHave s := by
  unfold setupHead setupHave
  split <;> simp_all

theorem inResp_iff (s : State) (e : EpNum) : inResp s e = true ↔ s.inQueued = true ∧ s.inEp = e := by
  simp [inResp]

theorem outResp_iff (s : State) :
    outResp s = true ↔ s.outEn = true ∧ 0 < s.outQ.length + s.outRx.length ∧ s.outOvf = false := by
  simp [outResp, and_assoc]

end Sys2Proof.Machine
end

