-- ==== Sys2Proof/Laws/Exec.lean ====
section
/-! SUPPORT. What an instruction can do, once: a protocol instruction runs its event after the frame (40 R120), and a CPU
instruction changes only what the control agent may (20 R82, 45 R287). -/

namespace Sys2Proof.Machine

/-- The event a protocol instruction runs after the frame of its step. -/
def eventOf : Instr → State → State
  | .nop i => nopEvent i
  | .start => startTxn
  | .tokenOut addr ep => addressedToken (tokenData .dirOut) addr ep
  | .tokenSof _ _ => tokenSof
  | .tokenIn addr ep => addressedToken (tokenData .dirIn) addr ep
  | .tokenSetup addr ep => addressedToken tokenSetup addr ep
  | .rxb b => rxByteEvent b
  | .txpop => txPopEvent
  | .dend => id
  | .txnEnd c => fun s => endTxn s c
  | .err => errorEvent
  | .brst => busResetEvent
  | .dbg a => debugEvent a
  | .tokenInvalidRsv0 _ _ | .tokenInvalidAck _ _ | .tokenInvalidData0 _ _ | .tokenInvalidPing _ _ | .tokenInvalidNyet _ _
  | .tokenInvalidData2 _ _ | .tokenInvalidSplit _ _ | .tokenInvalidNak _ _ | .tokenInvalidData1 _ _ | .tokenInvalidPreErr _ _
  | .tokenInvalidStall _ _ | .tokenInvalidMdata _ _ => tokenInvalid
  | .reservedKindAB _ | .reservedKindCF _ | .rdAddress | .wrAddress _ | .rdEnableOut
  | .wrEnableOut _ | .rdEnableIn | .wrEnableIn _ | .rdStage | .wrStage _
  | .rdErrorCount | .wrErrorCount _ | .rdInvalidStateCount | .wrInvalidStateCount _ | .rdTokenWaitCount
  | .wrTokenWaitCount _ | .rdEvPending | .wrEvPending _ | .rdEvEnable | .wrEvEnable _
  | .rdSetupData | .wrSetupData _ | .rdSetupAdvance | .wrSetupAdvance _ | .rdSetupStatus
  | .wrSetupStatus _ | .rdInData | .wrInData _ | .rdInCtrl | .wrInCtrl _
  | .rdInStatus | .wrInStatus _ | .rdOutData | .wrOutData _ | .rdOutCtrl
  | .wrOutCtrl _ | .rdOutStatus | .wrOutStatus _ | .rdUnmapped48 _ | .wrUnmapped48 _ _
  | .rdUnmapped50 _ | .wrUnmapped50 _ _ | .rdUnmapped60 _ | .wrUnmapped60 _ _ | .rdUnmapped80 _
  | .wrUnmapped80 _ _ => id

/-- A protocol instruction that answers a next state has run its event after the frame. -/
theorem exec_protocol_next {i : Instr} {s t : State} (hi : i.agent = .protocol) (h : exec i s = .next t) :
    t = eventOf i (protocolFrame s) := by
  cases i <;> simp only [Instr.agent, reduceCtorEq] at hi <;> first
    | exact protocolStep_eq_next.mp h
    | exact absurd h (by simp [exec, execReservedKindAB, execReservedKindCF])

/-- A protocol instruction that is not of a reserved kind answers a next state. -/
theorem exec_protocol_eq {i : Instr} (s : State) (hi : i.agent = .protocol) (hab : ∀ k, i ≠ .reservedKindAB k)
    (hcf : ∀ k, i ≠ .reservedKindCF k) : exec i s = .next (eventOf i (protocolFrame s)) := by
  cases i <;> simp only [Instr.agent, reduceCtorEq] at hi <;> first
    | rfl
    | exact absurd rfl (hab _)
    | exact absurd rfl (hcf _)

theorem setupReceive_frame (s : State) (b : Byte) :
    ∃ buf isIn nz idx, setupReceive s b = { s with
      setupBuf := buf, setupIsIn := isIn, setupLenNz := nz, setupIdx := idx } := by
  unfold setupReceive; split
  · exact ⟨_, _, _, _, rfl⟩
  · exact ⟨s.setupBuf, s.setupIsIn, s.setupLenNz, s.setupIdx, rfl⟩

theorem outReceive_frame (s : State) (b : Byte) :
    ∃ rx ovf idle, outReceive s b = { s with outRx := rx, outOvf := ovf, outIdle := idle } := by
  unfold outReceive; split
  · exact ⟨_, s.outOvf, _, rfl⟩
  · exact ⟨s.outRx, _, _, rfl⟩

theorem inAdvance_frame (s : State) : ∃ q, q <:+ s.inQ ∧ inAdvance s = { s with inQ := q } := by
  unfold inAdvance; split
  · exact ⟨_, List.tail_suffix _, rfl⟩
  · exact ⟨s.inQ, List.suffix_refl _, rfl⟩

/-- The fields only a committed END changes, of those a protocol step may (40 R122, 42 R194, 43 R213, 44 R242). -/
structure SameCommitted (s t : State) : Prop where
  outQ : t.outQ = s.outQ
  inQueued : t.inQueued = s.inQueued
  outEn : t.outEn = s.outEn
  outEp : t.outEp = s.outEp
  evPend : t.evPend = s.evPend
  dtb : t.dtb = s.dtb
  setupEp : t.setupEp = s.setupEp

/-- The fields no protocol event changes: the CPU's, and the parameters (20 R82). -/
structure SameCpu (s t : State) : Prop where
  cfg : t.cfg = s.cfg
  inputs : t.inputs = s.inputs
  readData : t.readData = s.readData
  drawIdx : t.drawIdx = s.drawIdx
  enOut : t.enOut = s.enOut
  enIn : t.enIn = s.enIn
  inEp : t.inEp = s.inEp
  evEn : t.evEn = s.evEn
  inQ : t.inQ <:+ s.inQ

/-- A record update that leaves those fields alone: the two tuples are equal by `rfl`. -/
theorem same_of_eq {s t : State}
    (h : (t.outQ, t.inQueued, t.outEn, t.outEp, t.evPend, t.dtb, t.setupEp, t.cfg, t.inputs, t.readData, t.drawIdx,
      t.enOut, t.enIn, t.inEp, t.evEn, t.inQ)
      = (s.outQ, s.inQueued, s.outEn, s.outEp, s.evPend, s.dtb, s.setupEp, s.cfg, s.inputs, s.readData, s.drawIdx,
      s.enOut, s.enIn, s.inEp, s.evEn, s.inQ)) :
    SameCommitted s t ∧ SameCpu s t := by
  simp only [Prod.mk.injEq] at h
  obtain ⟨h1, h2, h3, h4, h5, h6, h7, h8, h9, h10, h11, h12, h13, h14, h15, h16⟩ := h
  exact ⟨⟨h1, h2, h3, h4, h5, h6, h7⟩, ⟨h8, h9, h10, h11, h12, h13, h14, h15, h16 ▸ List.suffix_refl _⟩⟩

theorem tokenIgnored_frame (s : State) : ∃ stage, tokenIgnored s = { s with route := .rNone, stage := stage } :=
  ⟨_, tokenIgnored_eq s⟩

/-- An addressed token changes the transaction and, if it is a SETUP, the record (40 R125 to R130). -/
theorem addressedToken_frame (accept : EpNum → State → State) (addr : DevAddr) (ep : EpNum) (s : State)
    (h : ∀ u : State, SameCommitted u (accept ep u) ∧ SameCpu u (accept ep u)) :
    SameCommitted s (addressedToken accept addr ep s) ∧ SameCpu s (addressedToken accept addr ep s) := by
  obtain ⟨stage, rx, ovf, idle, hp⟩ := tokenPrelude_frame s
  obtain ⟨hc, hk⟩ := h (tokenPrelude s)
  rcases addressedToken_cases accept addr ep s with ⟨-, e⟩ | ⟨-, -, e⟩ | ⟨-, -, e⟩
  · rw [e, tokenIgnored_eq, hp]
    exact same_of_eq rfl
  · rw [e, hp]
    exact same_of_eq rfl
  · rw [e]
    rw [hp] at hc hk ⊢
    exact ⟨⟨hc.1, hc.2, hc.3, hc.4, hc.5, hc.6, hc.7⟩, ⟨hk.1, hk.2, hk.3, hk.4, hk.5, hk.6, hk.7, hk.8, hk.9⟩⟩

/-- No protocol event but a committed END exposes data, raises an event, flips a toggle or disarms a handler, and none
touches what the CPU owns. -/
theorem eventOf_frame {i : Instr} (s : State) (hi : i.agent = .protocol) (hne : i ≠ .txnEnd true) :
    SameCommitted s (eventOf i s) ∧ SameCpu s (eventOf i s) := by
  obtain ⟨stage, rx, ovf, idle, hp⟩ := tokenPrelude_frame s
  obtain ⟨stage', rx', ovf', idle', he⟩ := endTxn_false_frame s
  cases i <;> simp only [Instr.agent, reduceCtorEq] at hi
  case nop i =>
    simp only [eventOf, nopEvent, leaveStage_eq]
    split
    · split <;>
        exact same_of_eq rfl
    · exact same_of_eq rfl
  case start =>
    rw [eventOf, startTxn_eq, he]
    exact same_of_eq rfl
  case tokenOut addr ep =>
    refine addressedToken_frame _ _ _ _ fun u => ?_
    obtain ⟨r, g, h⟩ := routeData_frame { u with curEp := ep } .dirOut
    rw [tokenData, h]
    exact same_of_eq rfl
  case tokenIn addr ep =>
    refine addressedToken_frame _ _ _ _ fun u => ?_
    obtain ⟨r, g, h⟩ := routeData_frame { u with curEp := ep } .dirIn
    rw [tokenData, h]
    exact same_of_eq rfl
  case tokenSetup addr ep =>
    exact addressedToken_frame _ _ _ _ fun u =>
      same_of_eq rfl
  case tokenSof addr ep =>
    rw [eventOf, tokenSof, tokenIgnored_eq, hp]
    exact same_of_eq rfl
  case rxb b =>
    simp only [eventOf, rxByteEvent]
    split
    · obtain ⟨_, _, _, _, h⟩ := setupReceive_frame s b
      rw [h]
      exact same_of_eq rfl
    · obtain ⟨_, _, _, h⟩ := outReceive_frame s b
      rw [h]
      exact same_of_eq rfl
    all_goals exact same_of_eq rfl
  case txpop =>
    obtain ⟨q, hq, h⟩ := inAdvance_frame s
    simp only [eventOf, txPopEvent]
    split
    iterate 2
      rw [h]
      exact ⟨⟨rfl, rfl, rfl, rfl, rfl, rfl, rfl⟩, ⟨rfl, rfl, rfl, rfl, rfl, rfl, rfl, rfl, hq⟩⟩
    all_goals exact same_of_eq rfl
  case txnEnd c =>
    cases c
    · rw [show eventOf (.txnEnd false) s = endTxn s false from rfl, he]
      exact same_of_eq rfl
    · exact absurd rfl hne
  case err =>
    obtain ⟨_, _, _, _, h⟩ :=
      endTxn_false_frame { s with rstPulse := true, errorCount := satInc s.cfg s.errorCount }
    rw [eventOf, errorEvent, abandon_eq, h]
    exact same_of_eq rfl
  case brst =>
    rw [eventOf, busResetEvent, abandon_eq, he]
    exact same_of_eq rfl
  case dbg a =>
    simp only [eventOf, debugEvent]
    split
    · split <;>
        exact same_of_eq rfl
    · exact same_of_eq rfl
  all_goals first
    | exact same_of_eq rfl
    | (rw [eventOf, tokenInvalid, hp]
       exact same_of_eq rfl)

theorem setupAdvance_frame (s : State) : ∃ rd, setupAdvance s = { s with setupRd := rd } := by
  unfold setupAdvance; split
  · exact ⟨_, rfl⟩
  · exact ⟨s.setupRd, rfl⟩

theorem inPush_frame (s : State) (b : Byte) : ∃ q, inPush s b = { s with inQ := q } := by
  unfold inPush; split
  · exact ⟨_, rfl⟩
  · exact ⟨s.inQ, rfl⟩

theorem inArm_frame (s : State) (e : EpNum) : ∃ ep q, inArm s e = { s with inEp := ep, inQueued := q } := by
  unfold inArm; split
  · exact ⟨s.inEp, s.inQueued, rfl⟩
  · exact ⟨_, _, rfl⟩

/-- A CPU instruction answers a next state, and changes no field but those of the control agent (20 R82). -/
theorem exec_control_frame {i : Instr} (s : State) (hi : i.agent = .control) :
    ∃ rdData addr eo ei pend en rd q e queued outQ outEn, exec i s = .next { s with
      readData := rdData, addrReg := addr, enOut := eo, enIn := ei, evPend := pend, evEn := en, setupRd := rd,
      inQ := q, inEp := e, inQueued := queued, outQ := outQ, outEn := outEn } := by
  cases i <;> simp only [Instr.agent, reduceCtorEq] at hi
  case wrSetupAdvance d =>
    obtain ⟨rd, h⟩ := setupAdvance_frame s
    exact ⟨_, _, _, _, _, _, _, _, _, _, _, _, congrArg Host.Outcome.next h⟩
  case wrInData d =>
    obtain ⟨q, h⟩ := inPush_frame s (fieldByte d)
    exact ⟨_, _, _, _, _, _, _, _, _, _, _, _, congrArg Host.Outcome.next h⟩
  case wrInCtrl d =>
    cases hr : fieldReset d
    · obtain ⟨e, q, h⟩ := inArm_frame s (fieldEpno d)
      exact ⟨_, _, _, _, _, _, _, _, _, _, _, _, by rw [exec, execWrInCtrl, cpuWrite, hr]; exact congrArg Host.Outcome.next h⟩
    · exact ⟨_, _, _, _, _, _, _, _, _, _, _, _, by rw [exec, execWrInCtrl, cpuWrite, hr]; rfl⟩
  all_goals exact ⟨_, _, _, _, _, _, _, _, _, _, _, _, rfl⟩

/-- A CPU instruction's next state differs from the state in the control agent's fields alone. -/
theorem exec_control_next {i : Instr} {s t : State} (hi : i.agent = .control) (h : exec i s = .next t) :
    ∃ rdData addr eo ei pend en rd q e queued outQ outEn, t = { s with
      readData := rdData, addrReg := addr, enOut := eo, enIn := ei, evPend := pend, evEn := en, setupRd := rd,
      inQ := q, inEp := e, inQueued := queued, outQ := outQ, outEn := outEn } := by
  obtain ⟨a, b, c, d, e, f, g, i, j, k, l, m, hx⟩ := exec_control_frame s hi
  exact ⟨a, b, c, d, e, f, g, i, j, k, l, m, by rw [hx] at h; injection h with h; exact h.symm⟩

end Sys2Proof.Machine
end

