-- ==== Sys2Proof/Laws/Invariant.lean ====
section
/-! SUPPORT. What each route says of the stage (10 R24), and that every operation on the byte queues keeps their
capacity (10 R33, R36). -/

namespace Sys2Proof.Machine

/-! ### The stage of each route -/

theorem allows_rNone_iff (g : Stage) : g.allows .rNone = true ↔ g.isResting = true := by cases g <;> decide

theorem allows_rWait_iff (g : Stage) : g.allows .rWait = true ↔ g = .tokenCheck ∨ g.isControl = true := by
  cases g <;> decide

theorem allows_rSetup_iff (g : Stage) : g.allows .rSetup = true ↔ g = .setup := by cases g <;> decide

theorem allows_rIn_iff (g : Stage) : g.allows .rIn = true ↔ g = .genericIn ∨ g.isControl = true := by
  cases g <;> decide

theorem allows_rOut_iff (g : Stage) : g.allows .rOut = true ↔ g = .genericOut ∨ g.isControl = true := by
  cases g <;> decide

theorem allows_rStatusIn_iff (g : Stage) :
    g.allows .rStatusIn = true ↔ g = .controlOut ∨ g = .waitControlAckIn := by cases g <;> decide

theorem allows_rStatusOut_iff (g : Stage) :
    g.allows .rStatusOut = true ↔ g = .waitDone ∨ g = .waitControlAckOut := by cases g <;> decide

theorem allows_rDebug_iff (g : Stage) : g.allows .rDebug = true ↔ g = .debug := by cases g <;> decide

/-! ### The queues keep their capacity -/

theorem QueueInv.inPush {s : State} (h : QueueInv s) (b : Byte) : QueueInv (inPush s b) := by
  unfold Machine.inPush
  split
  · next hlt => exact ⟨by simpa using hlt, h.2⟩
  · exact h

theorem QueueInv.inAdvance {s : State} (h : QueueInv s) : QueueInv (inAdvance s) := by
  unfold Machine.inAdvance
  split
  · refine ⟨?_, h.2⟩
    have := h.1
    simp only [List.length_tail]
    omega
  · exact h

theorem QueueInv.outReceive {s : State} (h : QueueInv s) (b : Byte) : QueueInv (outReceive s b) := by
  unfold Machine.outReceive
  split
  · next hlt =>
    refine ⟨h.1, ?_⟩
    simp only [List.length_append, List.length_singleton]
    omega
  · exact h

theorem QueueInv.outEnd {s : State} (h : QueueInv s) (c : Bool) : QueueInv (outEnd s c) := by
  have := h.2
  cases c
  · refine ⟨h.1, ?_⟩
    simp only [outEnd_uncommitted, List.length_nil]
    omega
  · refine ⟨h.1, ?_⟩
    simp only [outEnd_commit, List.length_append, List.length_nil]
    omega

theorem QueueInv.outControl {s : State} (h : QueueInv s) (advance enable : Bool) :
    QueueInv (outControl s advance enable) := by
  have := h.2
  refine ⟨h.1, ?_⟩
  cases advance <;> simp only [Machine.outControl, Bool.false_eq_true, if_true, if_false, List.length_tail] <;> omega

end Sys2Proof.Machine
end

