-- ==== Sys2Proof/Laws/Contract.lean ====
section
/-! SUPPORT. What the core samples in each route (40 R141), and that each move of the contract's phase keeps
`PhaseInv` where the engine moves with it (60 R330). -/

namespace Sys2Proof.Machine

/-! ### The answer in each route -/

theorem handshake_rStatusIn {s : State} (h : s.route = .rStatusIn) :
    handshake s = some (if epBit s.dtb s.curEp then .data1 else .data0) := by
  simp [handshake, h, stallSignal, armSignal, dtbSignal]

theorem handshake_ack_of_always {s : State} (h : s.route = .rSetup ∨ s.route = .rStatusOut) :
    handshake s = some .ack := by
  rcases h with h | h <;> simp [handshake, h, stallSignal, armSignal]

/-- An OUT packet is acknowledged only if it lost no byte (44 R241). -/
theorem outOvf_of_ack {s : State} (h : s.route = .rOut) (ha : handshake s = some .ack) : s.outOvf = false := by
  cases hs : shouldStall s s.curEp .dirOut <;> cases hr : outResp s <;>
    simp [handshake, h, stallSignal, armSignal, hs, hr] at ha
  exact ((outResp_iff s).1 hr).2.2

/-! ### The phase -/

theorem receives_iff (r : Route) : r.receives = true ↔ r = .rSetup ∨ r = .rOut ∨ r = .rStatusOut := by
  cases r <;> simp [Route.receives]

/-- A step that keeps the route, the SETUP byte counter and the overflow mark keeps the phase's invariant. -/
theorem PhaseInv.keepWatch {p : CorePhase} {s t : State} (h : PhaseInv p s) (hr : t.route = s.route)
    (hi : t.setupIdx = s.setupIdx) (ho : t.outOvf = s.outOvf) : PhaseInv (keepWatch p t) t := by
  cases p <;> simp only [PhaseInv, Machine.keepWatch, hr, hi, ho] at h ⊢
  case sending => exact ⟨h.1, fun hx => by simp [hx], fun hx => by simp [hx]⟩
  all_goals exact h

/-- After a token the phase is that of the route it opened. -/
theorem PhaseInv.afterToken {t : State} (hi : t.route = .rSetup → t.setupIdx = 0) :
    PhaseInv (afterToken t) t := by
  unfold Machine.afterToken
  cases hr : t.route <;> simp only [PhaseInv, hr, Route.receives]
  case rSetup => simp [hi hr]
  case rStatusIn => rw [handshake_rStatusIn hr]; cases epBit t.dtb t.curEp <;> simp
  case rIn => rcases handshake t with _ | _ | _ | _ | _ | _ <;> simp
  all_goals simp

/-- DEND, in a state the engine leaves as it is, moves the phase to the answer the core samples there. -/
theorem PhaseInv.afterDend {p : CorePhase} {t : State} (h : PhaseInv p t) (ha : coreAllows p t .dend = true) :
    PhaseInv (afterDend p t) t := by
  cases p <;> simp only [coreAllows, Bool.false_eq_true] at ha <;> simp only [PhaseInv, Machine.afterDend] at h ⊢
  case receiving n =>
    rcases (receives_iff _).1 h.1 with hr | hr | hr
    · have : n = setupPacketBytes := by simpa [hr] using ha
      simp [hr, handshake_ack_of_always (.inl hr), (h.2 hr).2, this]
    · simpa [hr] using outOvf_of_ack hr
    · simp [hr, handshake_ack_of_always (.inr hr)]
  case sending => exact h.1
  case declined => exact .inl ⟨h, trivial⟩
  case bridged => exact h

end Sys2Proof.Machine
end

