-- ==== Sys2Proof/Laws/Encoding.lean ====
section
/-! SUPPORT. The fields of a word put together by appending, and what the decoder makes of the encoder's word forms.
A field of an appended word is read bit by bit; the words' widths are written as sums so that the library's lemmas on
append apply. -/

namespace Sys2Proof

/-! ### Fields of a protocol event word -/

theorem pewKind_append (kind : BitVec 4) (payload : BitVec 20) : pewKind (kind ++ payload) = kind := by
  apply BitVec.eq_of_getLsbD_eq; intro i hi
  show (BitVec.extractLsb' (n := 4 + 20) 20 4 _).getLsbD i = _
  simp only [BitVec.getLsbD_extractLsb', BitVec.getLsbD_append]
  interval_cases i <;> simp

theorem pewPid_token (kind pid : BitVec 4) (x : BitVec 1) (addr : DevAddr) (y : BitVec 4) (ep : EpNum) :
    pewPid (kind ++ pid ++ x ++ addr ++ y ++ ep) = pid := by
  apply BitVec.eq_of_getLsbD_eq; intro i hi
  show (BitVec.extractLsb' (n := 4 + 4 + 1 + 7 + 4 + 4) 16 4 _).getLsbD i = _
  simp only [BitVec.getLsbD_extractLsb', BitVec.getLsbD_append]
  interval_cases i <;> simp

theorem pewAddr_token (kind pid : BitVec 4) (x : BitVec 1) (addr : DevAddr) (y : BitVec 4) (ep : EpNum) :
    pewAddr (kind ++ pid ++ x ++ addr ++ y ++ ep) = addr := by
  apply BitVec.eq_of_getLsbD_eq; intro i hi
  show (BitVec.extractLsb' (n := 4 + 4 + 1 + 7 + 4 + 4) 8 7 _).getLsbD i = _
  simp only [BitVec.getLsbD_extractLsb', BitVec.getLsbD_append]
  interval_cases i <;> simp

theorem pewEp_token (kind pid : BitVec 4) (x : BitVec 1) (addr : DevAddr) (y : BitVec 4) (ep : EpNum) :
    pewEp (kind ++ pid ++ x ++ addr ++ y ++ ep) = ep := by
  apply BitVec.eq_of_getLsbD_eq; intro i hi
  show (BitVec.extractLsb' (n := 4 + 4 + 1 + 7 + 4 + 4) 0 4 _).getLsbD i = _
  simp only [BitVec.getLsbD_extractLsb', BitVec.getLsbD_append]
  interval_cases i <;> simp

theorem pewKind_token (kind pid : BitVec 4) (x : BitVec 1) (addr : DevAddr) (y : BitVec 4) (ep : EpNum) :
    pewKind (kind ++ pid ++ x ++ addr ++ y ++ ep) = kind := by
  apply BitVec.eq_of_getLsbD_eq; intro i hi
  show (BitVec.extractLsb' (n := 4 + 4 + 1 + 7 + 4 + 4) 20 4 _).getLsbD i = _
  simp only [BitVec.getLsbD_extractLsb', BitVec.getLsbD_append]
  interval_cases i <;> simp

theorem pewBit_append (kind : BitVec 4) (b : Bool) : pewBit (kind ++ bitPayload b) = b := by
  show (kind ++ bitPayload b : BitVec (4 + 20)).getLsbD 0 = b
  rw [BitVec.getLsbD_append, if_pos (by decide)]
  cases b <;> rfl

theorem pewByte_append (kind : BitVec 4) (b : Byte) : pewByte (kind ++ bytePayload b) = b := by
  apply BitVec.eq_of_getLsbD_eq; intro i hi
  show (BitVec.extractLsb' (n := 4 + (12 + 8)) 0 8 (kind ++ (0#12 ++ b))).getLsbD i = _
  simp only [BitVec.getLsbD_extractLsb', BitVec.getLsbD_append]
  interval_cases i <;> simp

/-! ### Fields of a CPU access word -/

theorem cawWrite_append (w : BitVec 1) (reg : BitVec 6) (lo : BitVec 2) (d : Word) :
    cawWrite (w ++ reg ++ lo ++ d) = w.getLsbD 0 := by
  show (w ++ reg ++ lo ++ d : BitVec (1 + 6 + 2 + 32)).getLsbD 40 = _
  simp only [BitVec.getLsbD_append]
  simp

theorem cawReg_append (w : BitVec 1) (reg : BitVec 6) (lo : BitVec 2) (d : Word) :
    cawReg (w ++ reg ++ lo ++ d) = reg := by
  apply BitVec.eq_of_getLsbD_eq; intro i hi
  show (BitVec.extractLsb' (n := 1 + 6 + 2 + 32) 34 6 _).getLsbD i = _
  simp only [BitVec.getLsbD_extractLsb', BitVec.getLsbD_append]
  interval_cases i <;> simp

theorem cawData_append (w : BitVec 1) (reg : BitVec 6) (lo : BitVec 2) (d : Word) :
    cawData (w ++ reg ++ lo ++ d) = d := by
  apply BitVec.eq_of_getLsbD_eq; intro i hi
  show (BitVec.extractLsb' (n := 1 + 6 + 2 + 32) 0 32 _).getLsbD i = _
  simp only [BitVec.getLsbD_extractLsb', BitVec.getLsbD_append]
  simp [hi]

/-! ### The decoder on the encoder's word forms -/

theorem decode_pewWord (kind : BitVec 4) (payload : BitVec 20) :
    decode (pewWord kind payload) = decodePew (kind ++ payload) := rfl

theorem decode_tokenWord (pid : BitVec 4) (addr : DevAddr) (ep : EpNum) :
    decode (tokenWord pid addr ep) = decodeToken pid addr ep := by
  have h : (0x2#4 ++ (pid ++ 0#1 ++ addr ++ 0#4 ++ ep) : BitVec 24) = 0x2#4 ++ pid ++ 0#1 ++ addr ++ 0#4 ++ ep := by
    apply BitVec.eq_of_getLsbD_eq; intro i hi
    show (0x2#4 ++ (pid ++ 0#1 ++ addr ++ 0#4 ++ ep) : BitVec (4 + (4 + 1 + 7 + 4 + 4))).getLsbD i
      = (0x2#4 ++ pid ++ 0#1 ++ addr ++ 0#4 ++ ep : BitVec (4 + 4 + 1 + 7 + 4 + 4)).getLsbD i
    simp only [BitVec.getLsbD_append]
    interval_cases i <;> simp
  rw [tokenWord, decode_pewWord, h]
  simp only [decodePew, pewKind_token, pewPid_token, pewAddr_token, pewEp_token]

theorem decode_cawWord (write : Bool) (reg : BitVec 6) (d : Word) :
    decode (cawWord write reg d) = if write then decodeWr reg d else decodeRd reg := by
  show decodeCaw (BitVec.ofBool write ++ reg ++ 0#2 ++ d) = _
  simp only [decodeCaw, cawWrite_append, cawReg_append, cawData_append]
  cases write <;> rfl

/-! ### A row's mask on the encoder's word forms -/

theorem pewWord_and (kind kindMask : BitVec 4) (payload payloadMask : BitVec 20) :
    (kind ++ payload : BitVec 24) &&& (kindMask ++ payloadMask)
      = (kind &&& kindMask) ++ (payload &&& payloadMask) := by
  apply BitVec.eq_of_getLsbD_eq; intro i hi
  show ((kind ++ payload : BitVec (4 + 20)) &&& (kindMask ++ payloadMask : BitVec (4 + 20))).getLsbD i
    = ((kind &&& kindMask) ++ (payload &&& payloadMask) : BitVec (4 + 20)).getLsbD i
  simp only [BitVec.getLsbD_and, BitVec.getLsbD_append]
  split <;> rfl

theorem cawWord_and (write writeMask : BitVec 1) (reg regMask : BitVec 6) (lo : BitVec 2) (d : Word) :
    (write ++ reg ++ lo ++ d : BitVec 41) &&& (writeMask ++ regMask ++ 0#2 ++ 0#32)
      = (write &&& writeMask) ++ (reg &&& regMask) ++ 0#2 ++ 0#32 := by
  apply BitVec.eq_of_getLsbD_eq; intro i hi
  show ((write ++ reg ++ lo ++ d : BitVec (1 + 6 + 2 + 32))
      &&& (writeMask ++ regMask ++ 0#2 ++ 0#32 : BitVec (1 + 6 + 2 + 32))).getLsbD i
    = ((write &&& writeMask) ++ (reg &&& regMask) ++ 0#2 ++ 0#32 : BitVec (1 + 6 + 2 + 32)).getLsbD i
  simp only [BitVec.getLsbD_and, BitVec.getLsbD_append]
  split <;> [simp; (split <;> [simp; (split <;> rfl)])]

/-- A PEW row of one KIND. -/
theorem matches_kind (kind : BitVec 4) (payload : BitVec 20) :
    (Row.pew (kind ++ 0#20) 0xF00000#24).matchesWord (pewWord kind payload) = true := by
  show ((kind ++ payload : BitVec 24) &&& (0xF#4 ++ 0#20) == (kind ++ 0#20 : BitVec 24)) = true
  rw [pewWord_and, show kind &&& 0xF#4 = kind from BitVec.and_allOnes, BitVec.and_zero, beq_self_eq_true]

/-- A PEW row of one PID. -/
theorem matches_pid (pid : BitVec 4) (addr : DevAddr) (ep : EpNum) :
    (Row.pew (0x2#4 ++ (pid ++ 0#16 : BitVec 20)) 0xFF0000#24).matchesWord (tokenWord pid addr ep) = true := by
  have h : (pid ++ 0#1 ++ addr ++ 0#4 ++ ep : BitVec 20) &&& 0xF0000#20 = (pid ++ 0#16 : BitVec 20) := by
    apply BitVec.eq_of_getLsbD_eq; intro i hi
    show ((pid ++ 0#1 ++ addr ++ 0#4 ++ ep : BitVec (4 + 1 + 7 + 4 + 4)) &&& 0xF0000#20).getLsbD i
      = (pid ++ 0#16 : BitVec (4 + 16)).getLsbD i
    simp only [BitVec.getLsbD_and, BitVec.getLsbD_append]
    interval_cases i <;> simp
  show ((0x2#4 ++ (pid ++ 0#1 ++ addr ++ 0#4 ++ ep) : BitVec 24) &&& (0xF#4 ++ 0xF0000#20) == _) = true
  rw [pewWord_and, h, show (0x2#4 : BitVec 4) &&& 0xF#4 = 0x2#4 from rfl, beq_self_eq_true]

/-- A CAW row, from the bits of its mask on W and `OFF[7:2]`. -/
theorem matches_reg (write : Bool) (reg value mask : BitVec 6) (d : Word) (h : reg &&& mask = value) :
    (Row.caw (BitVec.ofBool write ++ value ++ 0#2 ++ 0#32) (1#1 ++ mask ++ 0#2 ++ 0#32)).matchesWord
      (cawWord write reg d) = true := by
  show ((BitVec.ofBool write ++ reg ++ 0#2 ++ d : BitVec 41) &&& (1#1 ++ mask ++ 0#2 ++ 0#32) == _) = true
  rw [cawWord_and, h, show BitVec.ofBool write &&& 1#1 = BitVec.ofBool write by cases write <;> rfl, beq_self_eq_true]

end Sys2Proof
end

