-- ==== Sys2Proof/Laws/PerInstr.lean ====
section
/-! SUPPORT. Statements made for each instruction, one lemma for each constructor. -/

namespace Sys2Proof.Laws.RowOfEncoding

/-- The encoder's word of a well-formed instruction matches the instruction's own opcode-table row (30 R103, R104). -/
def Statement (i : Instr) : Prop := i.wf = true → i.row.matchesWord (encode i) = true

theorem nop (i : Bool) : Statement (.nop i) := fun _ => matches_kind 0x0#4 (bitPayload i)

theorem start : Statement (.start) := fun _ => matches_kind 0x1#4 0#20

theorem tokenInvalidRsv0 (addr : DevAddr) (ep : EpNum) : Statement (.tokenInvalidRsv0 addr ep) :=
  fun _ => matches_pid 0x0#4 addr ep

theorem tokenOut (addr : DevAddr) (ep : EpNum) : Statement (.tokenOut addr ep) := fun _ => matches_pid 0x1#4 addr ep

theorem tokenInvalidAck (addr : DevAddr) (ep : EpNum) : Statement (.tokenInvalidAck addr ep) :=
  fun _ => matches_pid 0x2#4 addr ep

theorem tokenInvalidData0 (addr : DevAddr) (ep : EpNum) : Statement (.tokenInvalidData0 addr ep) :=
  fun _ => matches_pid 0x3#4 addr ep

theorem tokenInvalidPing (addr : DevAddr) (ep : EpNum) : Statement (.tokenInvalidPing addr ep) :=
  fun _ => matches_pid 0x4#4 addr ep

theorem tokenSof (addr : DevAddr) (ep : EpNum) : Statement (.tokenSof addr ep) := fun _ => matches_pid 0x5#4 addr ep

theorem tokenInvalidNyet (addr : DevAddr) (ep : EpNum) : Statement (.tokenInvalidNyet addr ep) :=
  fun _ => matches_pid 0x6#4 addr ep

theorem tokenInvalidData2 (addr : DevAddr) (ep : EpNum) : Statement (.tokenInvalidData2 addr ep) :=
  fun _ => matches_pid 0x7#4 addr ep

theorem tokenInvalidSplit (addr : DevAddr) (ep : EpNum) : Statement (.tokenInvalidSplit addr ep) :=
  fun _ => matches_pid 0x8#4 addr ep

theorem tokenIn (addr : DevAddr) (ep : EpNum) : Statement (.tokenIn addr ep) := fun _ => matches_pid 0x9#4 addr ep

theorem tokenInvalidNak (addr : DevAddr) (ep : EpNum) : Statement (.tokenInvalidNak addr ep) :=
  fun _ => matches_pid 0xA#4 addr ep

theorem tokenInvalidData1 (addr : DevAddr) (ep : EpNum) : Statement (.tokenInvalidData1 addr ep) :=
  fun _ => matches_pid 0xB#4 addr ep

theorem tokenInvalidPreErr (addr : DevAddr) (ep : EpNum) : Statement (.tokenInvalidPreErr addr ep) :=
  fun _ => matches_pid 0xC#4 addr ep

theorem tokenSetup (addr : DevAddr) (ep : EpNum) : Statement (.tokenSetup addr ep) :=
  fun _ => matches_pid 0xD#4 addr ep

theorem tokenInvalidStall (addr : DevAddr) (ep : EpNum) : Statement (.tokenInvalidStall addr ep) :=
  fun _ => matches_pid 0xE#4 addr ep

theorem tokenInvalidMdata (addr : DevAddr) (ep : EpNum) : Statement (.tokenInvalidMdata addr ep) :=
  fun _ => matches_pid 0xF#4 addr ep

theorem rxb (b : Byte) : Statement (.rxb b) := fun _ => matches_kind 0x3#4 (bytePayload b)

theorem txpop : Statement (.txpop) := fun _ => matches_kind 0x4#4 0#20

theorem dend : Statement (.dend) := fun _ => matches_kind 0x5#4 0#20

theorem txnEnd (c : Bool) : Statement (.txnEnd c) := fun _ => matches_kind 0x6#4 (bitPayload c)

theorem err : Statement (.err) := fun _ => matches_kind 0x7#4 0#20

theorem brst : Statement (.brst) := fun _ => matches_kind 0x8#4 0#20

theorem dbg (a : Bool) : Statement (.dbg a) := fun _ => matches_kind 0x9#4 (bitPayload a)

theorem reservedKindAB (kind : BitVec 4) : Statement (.reservedKindAB kind) := by
  revert kind; unfold Statement; decide

theorem reservedKindCF (kind : BitVec 4) : Statement (.reservedKindCF kind) := by
  revert kind; unfold Statement; decide

theorem rdAddress : Statement (.rdAddress) := fun _ => matches_reg false 0x00#6 0x00#6 0x3F#6 0 rfl

theorem wrAddress (d : Word) : Statement (.wrAddress d) := fun _ => matches_reg true 0x00#6 0x00#6 0x3F#6 d rfl

theorem rdEnableOut : Statement (.rdEnableOut) := fun _ => matches_reg false 0x01#6 0x01#6 0x3F#6 0 rfl

theorem wrEnableOut (d : Word) : Statement (.wrEnableOut d) := fun _ => matches_reg true 0x01#6 0x01#6 0x3F#6 d rfl

theorem rdEnableIn : Statement (.rdEnableIn) := fun _ => matches_reg false 0x02#6 0x02#6 0x3F#6 0 rfl

theorem wrEnableIn (d : Word) : Statement (.wrEnableIn d) := fun _ => matches_reg true 0x02#6 0x02#6 0x3F#6 d rfl

theorem rdStage : Statement (.rdStage) := fun _ => matches_reg false 0x03#6 0x03#6 0x3F#6 0 rfl

theorem wrStage (d : Word) : Statement (.wrStage d) := fun _ => matches_reg true 0x03#6 0x03#6 0x3F#6 d rfl

theorem rdErrorCount : Statement (.rdErrorCount) := fun _ => matches_reg false 0x04#6 0x04#6 0x3F#6 0 rfl

theorem wrErrorCount (d : Word) : Statement (.wrErrorCount d) := fun _ => matches_reg true 0x04#6 0x04#6 0x3F#6 d rfl

theorem rdInvalidStateCount : Statement (.rdInvalidStateCount) :=
  fun _ => matches_reg false 0x05#6 0x05#6 0x3F#6 0 rfl

theorem wrInvalidStateCount (d : Word) : Statement (.wrInvalidStateCount d) :=
  fun _ => matches_reg true 0x05#6 0x05#6 0x3F#6 d rfl

theorem rdTokenWaitCount : Statement (.rdTokenWaitCount) := fun _ => matches_reg false 0x06#6 0x06#6 0x3F#6 0 rfl

theorem wrTokenWaitCount (d : Word) : Statement (.wrTokenWaitCount d) :=
  fun _ => matches_reg true 0x06#6 0x06#6 0x3F#6 d rfl

theorem rdEvPending : Statement (.rdEvPending) := fun _ => matches_reg false 0x07#6 0x07#6 0x3F#6 0 rfl

theorem wrEvPending (d : Word) : Statement (.wrEvPending d) := fun _ => matches_reg true 0x07#6 0x07#6 0x3F#6 d rfl

theorem rdEvEnable : Statement (.rdEvEnable) := fun _ => matches_reg false 0x08#6 0x08#6 0x3F#6 0 rfl

theorem wrEvEnable (d : Word) : Statement (.wrEvEnable d) := fun _ => matches_reg true 0x08#6 0x08#6 0x3F#6 d rfl

theorem rdSetupData : Statement (.rdSetupData) := fun _ => matches_reg false 0x09#6 0x09#6 0x3F#6 0 rfl

theorem wrSetupData (d : Word) : Statement (.wrSetupData d) := fun _ => matches_reg true 0x09#6 0x09#6 0x3F#6 d rfl

theorem rdSetupAdvance : Statement (.rdSetupAdvance) := fun _ => matches_reg false 0x0A#6 0x0A#6 0x3F#6 0 rfl

theorem wrSetupAdvance (d : Word) : Statement (.wrSetupAdvance d) :=
  fun _ => matches_reg true 0x0A#6 0x0A#6 0x3F#6 d rfl

theorem rdSetupStatus : Statement (.rdSetupStatus) := fun _ => matches_reg false 0x0B#6 0x0B#6 0x3F#6 0 rfl

theorem wrSetupStatus (d : Word) : Statement (.wrSetupStatus d) :=
  fun _ => matches_reg true 0x0B#6 0x0B#6 0x3F#6 d rfl

theorem rdInData : Statement (.rdInData) := fun _ => matches_reg false 0x0C#6 0x0C#6 0x3F#6 0 rfl

theorem wrInData (d : Word) : Statement (.wrInData d) := fun _ => matches_reg true 0x0C#6 0x0C#6 0x3F#6 d rfl

theorem rdInCtrl : Statement (.rdInCtrl) := fun _ => matches_reg false 0x0D#6 0x0D#6 0x3F#6 0 rfl

theorem wrInCtrl (d : Word) : Statement (.wrInCtrl d) := fun _ => matches_reg true 0x0D#6 0x0D#6 0x3F#6 d rfl

theorem rdInStatus : Statement (.rdInStatus) := fun _ => matches_reg false 0x0E#6 0x0E#6 0x3F#6 0 rfl

theorem wrInStatus (d : Word) : Statement (.wrInStatus d) := fun _ => matches_reg true 0x0E#6 0x0E#6 0x3F#6 d rfl

theorem rdOutData : Statement (.rdOutData) := fun _ => matches_reg false 0x0F#6 0x0F#6 0x3F#6 0 rfl

theorem wrOutData (d : Word) : Statement (.wrOutData d) := fun _ => matches_reg true 0x0F#6 0x0F#6 0x3F#6 d rfl

theorem rdOutCtrl : Statement (.rdOutCtrl) := fun _ => matches_reg false 0x10#6 0x10#6 0x3F#6 0 rfl

theorem wrOutCtrl (d : Word) : Statement (.wrOutCtrl d) := fun _ => matches_reg true 0x10#6 0x10#6 0x3F#6 d rfl

theorem rdOutStatus : Statement (.rdOutStatus) := fun _ => matches_reg false 0x11#6 0x11#6 0x3F#6 0 rfl

theorem wrOutStatus (d : Word) : Statement (.wrOutStatus d) := fun _ => matches_reg true 0x11#6 0x11#6 0x3F#6 d rfl

theorem mask_48 : ∀ reg, regWithin 0x12#6 0x13#6 reg = true → reg &&& 0x3E#6 = 0x12#6 := by decide

theorem mask_50 : ∀ reg, regWithin 0x14#6 0x17#6 reg = true → reg &&& 0x3C#6 = 0x14#6 := by decide

theorem mask_60 : ∀ reg, regWithin 0x18#6 0x1F#6 reg = true → reg &&& 0x38#6 = 0x18#6 := by decide

theorem mask_80 : ∀ reg, regWithin 0x20#6 0x3F#6 reg = true → reg &&& 0x20#6 = 0x20#6 := by decide

theorem rdUnmapped48 (reg : BitVec 6) : Statement (.rdUnmapped48 reg) := fun h =>
  matches_reg false reg 0x12#6 0x3E#6 0 (mask_48 reg h)

theorem wrUnmapped48 (reg : BitVec 6) (d : Word) : Statement (.wrUnmapped48 reg d) := fun h =>
  matches_reg true reg 0x12#6 0x3E#6 d (mask_48 reg h)

theorem rdUnmapped50 (reg : BitVec 6) : Statement (.rdUnmapped50 reg) := fun h =>
  matches_reg false reg 0x14#6 0x3C#6 0 (mask_50 reg h)

theorem wrUnmapped50 (reg : BitVec 6) (d : Word) : Statement (.wrUnmapped50 reg d) := fun h =>
  matches_reg true reg 0x14#6 0x3C#6 d (mask_50 reg h)

theorem rdUnmapped60 (reg : BitVec 6) : Statement (.rdUnmapped60 reg) := fun h =>
  matches_reg false reg 0x18#6 0x38#6 0 (mask_60 reg h)

theorem wrUnmapped60 (reg : BitVec 6) (d : Word) : Statement (.wrUnmapped60 reg d) := fun h =>
  matches_reg true reg 0x18#6 0x38#6 d (mask_60 reg h)

theorem rdUnmapped80 (reg : BitVec 6) : Statement (.rdUnmapped80 reg) := fun h =>
  matches_reg false reg 0x20#6 0x20#6 0 (mask_80 reg h)

theorem wrUnmapped80 (reg : BitVec 6) (d : Word) : Statement (.wrUnmapped80 reg d) := fun h =>
  matches_reg true reg 0x20#6 0x20#6 d (mask_80 reg h)

end Sys2Proof.Laws.RowOfEncoding
end

