-- ==== Sys2Proof/Tests/Slice0.lean ====
section
/-! SUPPORT. Tests: the well-formedness checks refuse what they should; words written out from 30_encoding.md and the
tables of 95_test_vectors.md decode to what they stand for; single steps whose results are those of 95_test_vectors.md
(each names its vector); and, for every obligation with hypotheses, states and operands that meet them. -/

namespace Sys2Proof.Tests

open Sys2Proof Sys2Proof.Machine

/-! ### Well-formedness: each check refuses an ill-formed term, and takes the ends of its range -/

theorem test_wf_reservedKindAB : (Instr.reservedKindAB 0xC).wf = false ∧ (Instr.reservedKindAB 0x9).wf = false ∧
    (Instr.reservedKindAB 0xA).wf = true ∧ (Instr.reservedKindAB 0xB).wf = true := by decide

theorem test_wf_reservedKindCF : (Instr.reservedKindCF 0xB).wf = false ∧ (Instr.reservedKindCF 0xC).wf = true ∧
    (Instr.reservedKindCF 0xF).wf = true := by decide

theorem test_wf_rdUnmapped48 : (Instr.rdUnmapped48 0x11).wf = false ∧ (Instr.rdUnmapped48 0x14).wf = false ∧
    (Instr.rdUnmapped48 0x12).wf = true ∧ (Instr.rdUnmapped48 0x13).wf = true := by decide

theorem test_wf_wrUnmapped48 : (Instr.wrUnmapped48 0x11 0).wf = false ∧ (Instr.wrUnmapped48 0x14 0).wf = false ∧
    (Instr.wrUnmapped48 0x12 0).wf = true ∧ (Instr.wrUnmapped48 0x13 0).wf = true := by decide

theorem test_wf_rdUnmapped50 : (Instr.rdUnmapped50 0x13).wf = false ∧ (Instr.rdUnmapped50 0x18).wf = false ∧
    (Instr.rdUnmapped50 0x14).wf = true ∧ (Instr.rdUnmapped50 0x17).wf = true := by decide

theorem test_wf_wrUnmapped50 : (Instr.wrUnmapped50 0x13 0).wf = false ∧ (Instr.wrUnmapped50 0x18 0).wf = false ∧
    (Instr.wrUnmapped50 0x14 0).wf = true ∧ (Instr.wrUnmapped50 0x17 0).wf = true := by decide

theorem test_wf_rdUnmapped60 : (Instr.rdUnmapped60 0x17).wf = false ∧ (Instr.rdUnmapped60 0x20).wf = false ∧
    (Instr.rdUnmapped60 0x18).wf = true ∧ (Instr.rdUnmapped60 0x1F).wf = true := by decide

theorem test_wf_wrUnmapped60 : (Instr.wrUnmapped60 0x17 0).wf = false ∧ (Instr.wrUnmapped60 0x20 0).wf = false ∧
    (Instr.wrUnmapped60 0x18 0).wf = true ∧ (Instr.wrUnmapped60 0x1F 0).wf = true := by decide

theorem test_wf_rdUnmapped80 : (Instr.rdUnmapped80 0x1F).wf = false ∧ (Instr.rdUnmapped80 0x20).wf = true ∧
    (Instr.rdUnmapped80 0x3F).wf = true := by decide

theorem test_wf_wrUnmapped80 : (Instr.wrUnmapped80 0x1F 0).wf = false ∧ (Instr.wrUnmapped80 0x20 0).wf = true ∧
    (Instr.wrUnmapped80 0x3F 0).wf = true := by decide

/-! ### Decoding: one word for each constructor, written out from the encoding (`KIND<<20 | payload`,
`W<<40 | OFF<<32 | D`) -/

/-- The words decode to the instructions beside them. -/
def decodesTo (table : List (InputWord × Instr)) : Bool := table.all fun p => decide (decode p.1 = p.2)

theorem test_decode_events : decodesTo
    [(.pew 0x000000, .nop false), (.pew 0x000001, .nop true), (.pew 0x100000, .start), (.pew 0x3000AA, .rxb 0xAA),
     (.pew 0x400000, .txpop), (.pew 0x500000, .dend), (.pew 0x600000, .txnEnd false), (.pew 0x600001, .txnEnd true),
     (.pew 0x700000, .err), (.pew 0x800000, .brst), (.pew 0x900001, .dbg true), (.pew 0x900000, .dbg false)]
    = true := by decide

theorem test_decode_tokens : decodesTo
    [(.pew 0x210203, .tokenOut 2 3), (.pew 0x257F00, .tokenSof 0x7F 0), (.pew 0x290502, .tokenIn 5 2),
     (.pew 0x2D0009, .tokenSetup 0 9)] = true := by decide

theorem test_decode_invalid_tokens : decodesTo
    [(.pew 0x200102, .tokenInvalidRsv0 1 2), (.pew 0x220102, .tokenInvalidAck 1 2),
     (.pew 0x230102, .tokenInvalidData0 1 2), (.pew 0x240102, .tokenInvalidPing 1 2),
     (.pew 0x260102, .tokenInvalidNyet 1 2), (.pew 0x270102, .tokenInvalidData2 1 2),
     (.pew 0x280102, .tokenInvalidSplit 1 2), (.pew 0x2A0102, .tokenInvalidNak 1 2),
     (.pew 0x2B0102, .tokenInvalidData1 1 2), (.pew 0x2C0102, .tokenInvalidPreErr 1 2),
     (.pew 0x2E0102, .tokenInvalidStall 1 2), (.pew 0x2F0102, .tokenInvalidMdata 1 2)] = true := by decide

/-- V-EN-6, and the last kind of each row. -/
theorem test_decode_reserved : decodesTo
    [(.pew 0xA00000, .reservedKindAB 0xA), (.pew 0xB12345, .reservedKindAB 0xB), (.pew 0xC00000, .reservedKindCF 0xC),
     (.pew 0xF00000, .reservedKindCF 0xF)] = true := by decide

/-- V-EN-1 to V-EN-5, V-EN-7. -/
theorem test_decode_vectors : decodesTo
    [(.pew 0x2D0000, .tokenSetup 0 0), (.pew 0x2905FF, .tokenIn 5 15), (.pew 0x29FF01, .tokenIn 0x7F 1),
     (.pew 0x6000FE, .txnEnd false), (.pew 0x3ABCDE, .rxb 0xDE), (.pew 0x220000, .tokenInvalidAck 0 0)] = true := by
  decide

/-- A token and an access bit by bit: KIND 2, PID 1001, -, ADDR 0000101, ----, EP 0010; W 1, OFF 00110100, D. -/
theorem test_decode_bits : decodesTo
    [(.pew 0b001010010000010100000010, .tokenIn 5 2),
     (.caw 0b10011010000000000000000000000000000010001, .wrInCtrl 0x11)] = true := by decide

theorem test_decode_global_reads : decodesTo
    [(.caw 0x00000000000, .rdAddress), (.caw 0x00400000000, .rdEnableOut), (.caw 0x00800000000, .rdEnableIn),
     (.caw 0x00C00000000, .rdStage), (.caw 0x01000000000, .rdErrorCount), (.caw 0x01400000000, .rdInvalidStateCount),
     (.caw 0x01800000000, .rdTokenWaitCount), (.caw 0x01C00000000, .rdEvPending), (.caw 0x02000000000, .rdEvEnable)]
    = true := by decide

theorem test_decode_global_writes : decodesTo
    [(.caw 0x10000000007, .wrAddress 7), (.caw 0x10400000005, .wrEnableOut 5), (.caw 0x10800000003, .wrEnableIn 3),
     (.caw 0x10C00000005, .wrStage 5), (.caw 0x11000000005, .wrErrorCount 5), (.caw 0x11400000001, .wrInvalidStateCount 1),
     (.caw 0x11800000001, .wrTokenWaitCount 1), (.caw 0x11C00000004, .wrEvPending 4), (.caw 0x12000000007, .wrEvEnable 7)]
    = true := by decide

theorem test_decode_handler_reads : decodesTo
    [(.caw 0x02400000000, .rdSetupData), (.caw 0x02800000000, .rdSetupAdvance), (.caw 0x02C00000000, .rdSetupStatus),
     (.caw 0x03000000000, .rdInData), (.caw 0x03400000000, .rdInCtrl), (.caw 0x03800000000, .rdInStatus),
     (.caw 0x03C00000000, .rdOutData), (.caw 0x04000000000, .rdOutCtrl), (.caw 0x04400000000, .rdOutStatus)]
    = true := by decide

theorem test_decode_handler_writes : decodesTo
    [(.caw 0x12400000001, .wrSetupData 1), (.caw 0x12800000000, .wrSetupAdvance 0),
     (.caw 0x12C000001FF, .wrSetupStatus 0x1FF), (.caw 0x130000000AA, .wrInData 0xAA), (.caw 0x13400000011, .wrInCtrl 0x11),
     (.caw 0x13800000001, .wrInStatus 1), (.caw 0x13C00000001, .wrOutData 1), (.caw 0x14000000002, .wrOutCtrl 2),
     (.caw 0x14400000001, .wrOutStatus 1)] = true := by decide

/-- V-EN-9 to V-EN-11, and the two ends of every unmapped block. -/
theorem test_decode_unmapped : decodesTo
    [(.caw 0x00100000000, .rdAddress), (.caw 0x04800000000, .rdUnmapped48 0x12), (.caw 0x04F00000000, .rdUnmapped48 0x13),
     (.caw 0x05000000000, .rdUnmapped50 0x14), (.caw 0x05C00000000, .rdUnmapped50 0x17),
     (.caw 0x06000000000, .rdUnmapped60 0x18), (.caw 0x07C00000000, .rdUnmapped60 0x1F),
     (.caw 0x08000000000, .rdUnmapped80 0x20), (.caw 0x0FF00000000, .rdUnmapped80 0x3F),
     (.caw 0x14800000001, .wrUnmapped48 0x12 1), (.caw 0x15C00000002, .wrUnmapped50 0x17 2),
     (.caw 0x16000000003, .wrUnmapped60 0x18 3), (.caw 0x1FC12345678, .wrUnmapped80 0x3F 0x12345678)] = true := by decide

/-- The table's words, as the host gives them: PEW rows in 24 bits, CAW rows in 48. -/
theorem test_decodeTableWord : decodeTableWord 24 0x2D0000 = some (.tokenSetup 0 0) ∧
    decodeTableWord 48 0x13400000011 = some (.wrInCtrl 0x11) := by decide

theorem test_opcode_table_sizes : pewRows.length = 27 ∧ cawReadRows.length = 22 ∧ cawWriteRows.length = 22 := by decide

/-! ### States for one-step tests -/

/-- Start state B of 95_test_vectors.md: reset and the boot sequence. -/
def booted : State := { State.reset with evEn := 0b111, enOut := 0x0001, enIn := 0x0001, outEn := true }

/-- A token is awaited, opened from IDLE. -/
def waiting : State := { booted with stage := .tokenCheck, route := .rWait }

/-- A token is awaited in a control stage. -/
def waitingIn (g : Stage) : State := { booted with stage := g, route := .rWait }

/-- A SETUP transaction with `n` bytes received. -/
def inSetup (n : Fin 11) : State := { booted with stage := .setup, route := .rSetup, setupIdx := n }

/-- A generic OUT transaction with committed bytes `q` and staged bytes `rx`. -/
def inOut (q rx : List Byte) : State :=
  { booted with stage := .genericOut, route := .rOut, outQ := q, outRx := rx, outIdle := rx.isEmpty }

/-- A generic IN transaction on endpoint 0, armed, with `q` queued. -/
def inIn (q : List Byte) : State :=
  { booted with stage := .genericIn, route := .rIn, inQ := q, inQueued := true }

/-- A status transaction of a control transfer. -/
def inStatusIn : State := { booted with stage := .controlOut, route := .rStatusIn, inQueued := true, inQ := [0x11] }

/-- With the debug stage present and a session active. -/
def debugging (s : State) : State := { s with cfg := { s.cfg with debugPresent := true }, debugActive := true }

/-- A committed record of ten bytes, of which `rd` are read. -/
def recorded (rd : Fin 11) : State :=
  { booted with
    setupBuf := #v[0x80, 0x06, 0x00, 0x01, 0x00, 0x00, 0x12, 0x00, 0xAA, 0x55], setupLen := 10, setupRd := rd,
    setupValid := true, evPend := 0b001 }

/-- The instruction answers a next state of which `p` holds. -/
def after (i : Instr) (s : State) (p : State → Bool) : Bool :=
  match exec i s with
  | .next t => p t
  | _ => false

/-! ### One-step results, from the vectors of 95_test_vectors.md -/

/-- V-TR-1. -/
theorem test_start : after .start State.reset (fun t => decide (t.stage = .tokenCheck ∧ t.route = .rWait)) = true := by
  decide

/-- V-TR-2: StartTxn runs first; not armed, so NAK. -/
theorem test_token_in_without_start : after (.tokenIn 0 1) { State.reset with enIn := 0x0002 } (fun t =>
    decide (t.stage = .genericIn ∧ t.route = .rIn ∧ t.curEp = 1 ∧ handshake t = some .nak)) = true := by decide

/-- V-TR-4: saturated. -/
theorem test_nop_saturates : after (.nop false) { waiting with tokenWaitCount := 0xFFFFFFFF } (fun t =>
    decide (t.tokenWaitCount = 0xFFFFFFFF ∧ t.route = .rWait)) = true := by decide

/-- V-TR-5. -/
theorem test_nop_idle : after (.nop true) waiting (fun t => decide (t.stage = .idle ∧ t.route = .rNone)) = true := by
  decide

/-- V-TR-6: the second START abandons the OUT transaction. -/
theorem test_start_abandons : after .start (inOut [] [0x01]) (fun t =>
    decide (t.outRx = [] ∧ t.outIdle = true ∧ t.stage = .tokenCheck ∧ t.outQ = [])) = true := by decide

/-- V-TR-7: a control transfer is abandoned, and no error is counted. -/
theorem test_invalid_pid : after (.tokenInvalidNak 0 0) (waitingIn .controlIn) (fun t =>
    decide (t.stage = .idle ∧ t.route = .rNone ∧ t.invalidStateCount = 1 ∧ t.errorCount = 0)) = true := by decide

/-- V-TR-9. -/
theorem test_sof_keeps_stage : after (.tokenSof 0 0) (waitingIn .controlIn) (fun t =>
    decide (t.stage = .controlIn ∧ t.route = .rNone ∧ t.invalidStateCount = 0)) = true := by decide

/-- V-TR-11: not ours. -/
theorem test_address_mismatch : after (.tokenIn 5 1) { waiting with enIn := 0x0002 } (fun t =>
    decide (t.stage = .idle ∧ t.route = .rNone ∧ t.curEp = 0)) = true := by decide

/-- V-TR-14: the TXPOP of a stalled endpoint is ignored. -/
theorem test_txpop_stalled : after .txpop { inIn [0x5A] with enIn := 0 } (fun t =>
    decide (t.inQ = [0x5A] ∧ handshake t = some .stall)) = true := by decide

/-- P4 step 7. -/
theorem test_txpop : after .txpop (inIn [0xAA, 0xBB]) (fun t =>
    decide (t.inQ = [0xBB] ∧ (outputs t).txByte = 0xBB)) = true := by decide

/-- V-TR-18. -/
theorem test_address_latch : after (.nop false) { State.reset with addrReg := 3 } (fun t => decide (t.addrEff = 3))
    = true := by decide

/-- V-CS-1 to V-CS-5: the stage after the commit, by direction and length. -/
theorem test_setup_next : ∀ p ∈ [(true, true, Stage.controlIn), (false, true, Stage.controlOut),
      (false, false, Stage.waitControlAckIn), (true, false, Stage.waitControlAckOut)],
    after (.txnEnd true) { inSetup 10 with setupIsIn := p.1, setupLenNz := p.2.1 } (fun t =>
      decide (t.stage = p.2.2 ∧ t.setupValid = true ∧ t.setupLen = 10 ∧ t.evPend = 0b001)) = true := by decide

/-- V-CS-6: a SETUP on endpoint 3 forces its toggle, and starts no control transfer. -/
theorem test_setup_other_endpoint : after (.txnEnd true) { inSetup 10 with curEp := 3, dtb := 0xFFF7, setupIsIn := true }
    (fun t => decide (t.stage = .idle ∧ t.dtb = 0xFFFF ∧ t.setupEp = 3)) = true := by decide

/-- V-ST-1: the eleventh byte is dropped. -/
theorem test_setup_drop : after (.rxb 0xEE) (inSetup 10) (fun t =>
    decide (t.setupIdx = 10 ∧ t.setupBuf = (inSetup 10).setupBuf)) = true := by decide

/-- 42 R192: byte 0 gives the direction, byte 7 the length. -/
theorem test_setup_classify : after (.rxb 0x80) (inSetup 0) (fun t => decide (t.setupIsIn = true ∧ t.setupIdx = 1)) = true ∧
    after (.rxb 0x01) (inSetup 7) (fun t => decide (t.setupLenNz = true ∧ t.setupIsIn = false)) = true := by decide

/-- V-CS-9: a status OUT enters WAIT_DONE. -/
theorem test_status_out : after (.tokenOut 0 0) (waitingIn .controlIn) (fun t =>
    decide (t.stage = .waitDone ∧ t.route = .rStatusOut ∧ handshake t = some .ack)) = true := by decide

/-- V-CS-12: the commit finds endpoint 0 armed. -/
theorem test_status_in_commit : after (.txnEnd true) { inStatusIn with inQ := [] } (fun t =>
    decide (t.dtb = 0xFFFE ∧ t.inQueued = false ∧ t.evPend = 0b010 ∧ t.stage = .idle)) = true := by decide

/-- V-CS-15 and V-CS-18: the debug stage takes the token only if it is present. -/
theorem test_debug_intercept : after (.tokenSetup 0 0) (debugging waiting) (fun t =>
      decide (t.stage = .debug ∧ t.route = .rDebug)) = true ∧
    after (.tokenSetup 0 0) waiting (fun t => decide (t.stage = .setup ∧ t.route = .rSetup)) = true := by decide

/-- V-CS-16. -/
theorem test_debug_end : after (.dbg false) { debugging booted with stage := .debug, route := .rDebug } (fun t =>
    decide (t.stage = .idle ∧ t.route = .rNone ∧ t.debugActive = false)) = true := by decide

/-- V-IN-2: the second arm is ignored. -/
theorem test_arm_ignored : after (.wrInCtrl 0x2) { State.reset with inEp := 1, inQueued := true } (fun t =>
    decide (t.inEp = 1 ∧ t.inQueued = true)) = true := by decide

/-- V-IN-3: RESET wins. -/
theorem test_in_reset : after (.wrInCtrl 0x11) { State.reset with inEp := 1, inQueued := true, inQ := [0x1] } (fun t =>
    decide (t.inQ = [] ∧ t.inQueued = false ∧ t.inEp = 1)) = true := by decide

/-- V-IN-1 and V-IN-8: the 129th byte is dropped; only D[7:0] is pushed. -/
theorem test_in_push : after (.wrInData 0x80) { State.reset with inQ := List.replicate 128 0 } (fun t =>
      decide (t.inQ.length = 128)) = true ∧
    after (.wrInData 0x1FF) State.reset (fun t => decide (t.inQ = [0xFF])) = true := by decide +kernel

/-- V-IN-4 and V-IN-5: a commit counts only on the armed endpoint. -/
theorem test_in_commit : after (.txnEnd true) { inIn [] with curEp := 1, inEp := 1 } (fun t =>
      decide (t.dtb = 0xFFFD ∧ t.inQueued = false ∧ t.evPend = 0b010)) = true ∧
    after (.txnEnd true) { inIn [] with curEp := 2, inEp := 1 } (fun t =>
      decide (t.dtb = 0xFFFF ∧ t.inQueued = true ∧ t.evPend = 0)) = true := by decide

/-- V-OUT-1: the byte past the capacity is lost, and the packet NAKed. -/
theorem test_out_overflow : after (.rxb 0x02) (inOut (List.replicate 127 0) [0x01]) (fun t =>
    decide (t.outRx = [0x01] ∧ t.outOvf = true ∧ handshake t = some .nak)) = true := by decide +kernel

/-- P3 step 8. -/
theorem test_out_commit : after (.txnEnd true) { inOut [] [1, 2, 3] with curEp := 2 } (fun t =>
    decide (t.outQ = [1, 2, 3] ∧ t.outEn = false ∧ t.outEp = 2 ∧ t.evPend = 0b100 ∧ t.stage = .idle ∧ irq t = true))
    = true := by decide

/-- V-OUT-4: pop and keep enabled. -/
theorem test_out_ctrl : after (.wrOutCtrl 0x3) { State.reset with outQ := [0x55], outEn := true } (fun t =>
    decide (t.outQ = [] ∧ t.outEn = true)) = true := by decide

/-- V-GR-1: seven bits, and the latched copy is kept. -/
theorem test_wr_address : after (.wrAddress 0x85) State.reset (fun t => decide (t.addrReg = 5 ∧ t.addrEff = 0)) = true := by
  decide

/-- V-GR-6. -/
theorem test_wr_enable_in : after (.wrEnableIn 0xFFFFFFFF) State.reset (fun t => decide (t.enIn = 0xFFFF ∧ t.enOut = 0))
    = true := by decide

/-- V-GR-2: write 1 to clear. -/
theorem test_wr_ev_pending : after (.wrEvPending 0x1) { State.reset with evPend := 0b101 } (fun t =>
    decide (t.evPend = 0b100)) = true := by decide

/-- V-ST-9 and V-CS-6: the record and its status. -/
theorem test_setup_record : after .rdSetupData (recorded 6) (fun t => decide (t.readData = some 0x12)) = true ∧
    after (.wrSetupAdvance 0) (recorded 9) (fun t => decide (t.setupRd = 10 ∧ setupHave t = false)) = true ∧
    after .rdSetupStatus { recorded 0 with setupEp := 3 } (fun t => decide (t.readData = some 0x131)) = true := by decide

/-- P3 step 9 and P4 step 11. -/
theorem test_status_reads : after .rdOutStatus { booted with outQ := [1], outEp := 2, evPend := 0b100 } (fun t =>
      decide (t.readData = some 0x123)) = true ∧
    after .rdInStatus { booted with evPend := 0b010 } (fun t => decide (t.readData = some 0x102)) = true := by decide

/-- V-ER-1 and V-ER-2: ERR keeps the queue, the arm and the toggle, and raises the reset output. -/
theorem test_err : after .err (inIn [0x02]) (fun t =>
    decide (t.stage = .idle ∧ t.inQ = [0x02] ∧ t.inQueued = true ∧ t.dtb = 0xFFFF ∧ t.errorCount = 1 ∧
      (outputs t).reset = true)) = true := by decide

/-- V-ER-4, and the same at CTR_W = 1. -/
theorem test_err_saturates : after .err { booted with errorCount := 0xFFFFFFFF } (fun t =>
      decide (t.errorCount = 0xFFFFFFFF)) = true ∧
    after .err { booted with cfg := { booted.cfg with ctrWPred := 0 }, errorCount := 1 } (fun t =>
      decide (t.errorCount = 1)) = true := by decide

/-- P5 step 14: BRST drops the open packet and the address, and keeps what is committed. -/
theorem test_brst : after .brst { inOut [0x11] [0x22, 0x33] with addrReg := 5, addrEff := 5, evPend := 0b100 } (fun t =>
    decide (t.stage = .idle ∧ t.outRx = [] ∧ t.outQ = [0x11] ∧ t.outIdle = true ∧ t.addrReg = 0 ∧ t.addrEff = 0 ∧
      t.evPend = 0b100 ∧ t.rstPulse = false)) = true := by decide

/-- A fetched word runs: the step after reset. -/
theorem test_withFetchWord : (match step (State.reset.withFetchWord 48 0x10000000007) with
    | .next t => decide (t.addrReg = 7)
    | _ => false) = true := by decide

/-- 20 R72: little-endian. -/
theorem test_bus_byte : busByte 0x12345678 0 = 0x78 ∧ busByte 0x12345678 3 = 0x12 := by decide

/-- 00 R14: the key, at its ends. -/
theorem test_ep_key : epKey 0 .dirOut = 0 ∧ epKey 0 .dirIn = 1 ∧ epKey 15 .dirOut = 30 ∧ epKey 15 .dirIn = 31 := by decide

/-- 10 R27: the bitmap interleaves the two vectors. -/
theorem test_enable_bitmap : enableBitmap { State.reset with enOut := 0x8001, enIn := 0x0002 } = 0x40000009#32 := by
  decide +kernel

/-- 60 R315: the order within one cycle, and that BRST and ERR exclude the rest. -/
theorem test_cycle_order :
    (CycleSignals.steps { brst := false, err := false, dbg := none, start := true, token := some (0xD, 0, 0), rxb := none,
                          txpop := false, dend := true, txnEnd := some true })
      = [.start, .tokenSetup 0 0, .dend, .txnEnd true] ∧
    (CycleSignals.steps { brst := false, err := true, dbg := none, start := true, token := none, rxb := some 1,
                          txpop := false, dend := true, txnEnd := some true }) = [.err] := by decide

/-! ### Witnesses: for every obligation with hypotheses, states and operands that meet them, at the ends of their
ranges -/

/-- One staged or queued byte short of the capacity, and at it. -/
def bytes (n : Nat) : List Byte := List.replicate n 0x55

theorem witness_DecodeEncodeRoundTrip : (Instr.tokenIn 0x7F 15).wf = true ∧ (Instr.reservedKindCF 0xF).wf = true ∧
    (Instr.wrUnmapped80 0x3F 0xFFFFFFFF).wf = true := by decide

theorem witness_StepRunsTheNextWord : (State.reset.withFetchWord 24 0x100000).inputs = [.pew 0x100000] ∧
    State.reset.inputs = [] := by decide

theorem witness_EveryLegalWordHasANextState :
    (∀ k, Instr.dend ≠ .reservedKindAB k) ∧ (∀ k, Instr.dend ≠ .reservedKindCF k) := by simp

theorem witness_ReservedKindsAreRefused : 0xA#4 ≤ 0xA#4 ∧ 0xA#4 ≤ 0xF#4 := by decide

theorem witness_StepKeepsInv : EngineInv (waiting.withFetchWord 24 0x290000) ∧
    ∃ t, step (waiting.withFetchWord 24 0x290000) = .next t := by
  refine ⟨?_, _, rfl⟩
  unfold EngineInv RouteInv QueueInv StagedInv RecordInv CounterInv DebugInv PulseInv
  decide +kernel

theorem witness_StepKeepsParameters : (∃ t, step (waiting.withFetchWord 24 0x290000) = .next t) ∧
    (waiting.withFetchWord 24 0x290000).inputs = [.pew 0x290000] := ⟨⟨_, rfl⟩, by decide⟩

theorem witness_NopResult : booted.route ≠ .rWait ∧ waiting.route = .rWait ∧ (waitingIn .controlIn).route = .rWait := by
  decide

theorem witness_StartResult : booted.route = .rNone ∧ (inOut [] [0x01]).route ≠ .rNone := by decide

theorem witness_TokenWithoutStartActsAsStartThenToken : booted.route ≠ .rWait ∧ (inSetup 3).route ≠ .rWait := by decide

theorem witness_InvalidPidIsCountedAndReturnsToIdle : waiting.route = .rWait ∧
    ∀ pid ∈ [0x0#4, 0x2#4, 0xF#4], pid ≠ 0x1#4 ∧ pid ≠ 0x9#4 ∧ pid ≠ 0x5#4 ∧ pid ≠ 0xD#4 := by decide

theorem witness_IgnoredTokensCloseTheWait : waiting.route = .rWait ∧ (5 : DevAddr) ≠ (protocolFrame waiting).addrEff := by
  decide

theorem witness_DebugSessionTakesEndpointZeroTokens : let s := debugging waiting
    s.route = .rWait ∧ (0 : DevAddr) = (protocolFrame s).addrEff ∧ s.cfg.debugPresent = true ∧ s.debugActive = true ∧
      debugIntercepts s 0 = true ∧ debugIntercepts s 15 = false ∧ debugIntercepts waiting 0 = false ∧
      debugIntercepts { s with debugActive := false } 0 = false := by decide

theorem witness_SetupTokenResult : waiting.route = .rWait ∧ (0 : DevAddr) = (protocolFrame waiting).addrEff ∧
    debugIntercepts waiting 0 = false ∧ debugIntercepts (debugging waiting) 15 = false := by decide

theorem witness_GenericDataTokenResult : waiting.route = .rWait ∧ waiting.stage = .tokenCheck ∧
    (0 : DevAddr) = waiting.addrEff ∧ debugIntercepts waiting 0 = false := by decide

theorem witness_OtherEndpointDuringControlTransfer :
    ∀ g ∈ [Stage.controlIn, .controlOut, .waitControlAckIn, .waitControlAckOut], let s := waitingIn g
      s.route = .rWait ∧ s.stage = g ∧ (0 : DevAddr) = s.addrEff ∧ (1 : EpNum) ≠ 0 := by decide

theorem witness_ControlStageRoutingTable :
    ∀ g ∈ [Stage.controlIn, .controlOut, .waitControlAckIn, .waitControlAckOut], let s := waitingIn g
      s.route = .rWait ∧ (0 : DevAddr) = s.addrEff ∧ debugIntercepts s 0 = false ∧ s.stage = g := by decide

theorem witness_RxbInSetupResult : (inSetup 0).route = .rSetup ∧ (inSetup 0).stage ≠ .idle ∧
    (inSetup 0).setupIdx.val < 10 ∧ (1 : Fin 11).val = (inSetup 0).setupIdx.val + 1 ∧ (inSetup 9).setupIdx.val < 10 ∧
    (10 : Fin 11).val = (inSetup 9).setupIdx.val + 1 ∧ (inSetup 10).setupIdx.val = 10 := by decide

theorem witness_RxbOutsideSetupResult : (inOut [] []).route = .rOut ∧
    (inOut (bytes 100) (bytes 27)).outQ.length + (inOut (bytes 100) (bytes 27)).outRx.length < 128 ∧
    128 ≤ (inOut (bytes 100) (bytes 28)).outQ.length + (inOut (bytes 100) (bytes 28)).outRx.length ∧
    booted.route ≠ .rOut ∧ booted.route ≠ .rSetup := by decide +kernel

theorem witness_TxpopResult : (inIn [1]).route = .rIn ∧ (outputs (inIn [1])).txHave = true ∧
    (outputs (inIn [])).txHave = false ∧ inStatusIn.route = .rStatusIn ∧ (outputs inStatusIn).txHave = true ∧
    (outputs { inStatusIn with inQueued := false }).txHave = false ∧ booted.route ≠ .rIn ∧ booted.route ≠ .rStatusIn := by
  decide

theorem witness_SetupCommitResult : (inSetup 10).route = .rSetup ∧ (inSetup 10).stage ≠ .idle := by decide

theorem witness_InCommitResult : (inIn []).route = .rIn ∧ inStatusIn.route = .rStatusIn ∧
    ((inIn []).inQueued = true ∧ (inIn []).inEp = (inIn []).curEp) ∧
    ¬({ inIn [] with inEp := 1 }.inQueued = true ∧ { inIn [] with inEp := 1 }.inEp = (inIn []).curEp) := by decide

theorem witness_OutCommitResult : (inOut [] [1]).route = .rOut := by decide

theorem witness_UncommittedEndResult : booted.route = .rNone ∧ waiting.route = .rWait ∧ (inIn []).route = .rIn ∧
    (inOut [] []).route = .rOut ∧ (inSetup 0).route = .rSetup ∧ inStatusIn.route = .rStatusIn := by decide

theorem witness_DbgResult : booted.cfg.debugPresent = false ∧ (debugging booted).cfg.debugPresent = true ∧
    (debugging booted).route ≠ .rDebug ∧ { debugging booted with route := .rDebug }.route = .rDebug := by decide

theorem witness_GlobalRegisterReadResults : ∀ g : Stage, { booted with stage := g }.stage = g := fun _ => rfl

theorem witness_UnmappedOffsetsReadZeroAndIgnoreWrites : 0x48#8 ≤ 0x48#8 ∧ 0x48#8 ≤ 0xFF#8 := by decide

theorem witness_ReadsHaveNoSideEffect : cawWrite 0x00000000000 = false ∧ cawWrite 0x0FFFFFFFFFF = false := by decide

theorem witness_SetupDataAndAdvanceResults : setupHave (recorded 0) = true ∧ setupHave (recorded 9) = true ∧
    (9 : Fin 10).val = (recorded 9).setupRd.val ∧ (10 : Fin 11).val = (9 : Fin 10).val + 1 ∧
    setupHave (recorded 10) = false := by decide

theorem witness_InDataPushResult : { booted with inQ := bytes 127 }.inQ.length < 128 ∧
    128 ≤ { booted with inQ := bytes 128 }.inQ.length := by decide +kernel

theorem witness_InCtrlResult : (0x11 : Word).getLsbD 4 = true ∧ (0x0F : Word).getLsbD 4 = false ∧
    booted.inQueued = false ∧ (inIn []).inQueued = true := by decide

theorem witness_OutDataAndCtrlResults : (inOut [0x55] []).outQ = 0x55 :: [] ∧ (inOut [] []).outQ = [] ∧
    (0x1 : Word).getLsbD 0 = true ∧ (0x2 : Word).getLsbD 0 = false := by decide

theorem witness_StallPolicy : (inIn []).route = .rIn ∧ (inOut [] []).route = .rOut ∧ (inSetup 0).route = .rSetup := by
  decide

theorem witness_SetupAlwaysAck : (inSetup 0).route = .rSetup ∧ (0 : DevAddr) = (protocolFrame waiting).addrEff ∧
    debugIntercepts waiting 0 = false ∧ (0 : DevAddr) = (protocolFrame (inOut [] [1])).addrEff ∧
    debugIntercepts (inOut [] [1]) 15 = false := by decide

theorem witness_StallDeterminism : (inIn [0x5A]).route = .rIn ∧
    (enableBitmap { inIn [0x5A] with enIn := 0 }).getLsbD (2 * (inIn [0x5A]).curEp.toNat + 1) = false ∧
    (inOut [] []).route = .rOut ∧
    (enableBitmap { inOut [] [] with enOut := 0 }).getLsbD (2 * (inOut [] []).curEp.toNat) = false ∧
    (inSetup 0).route = .rSetup ∧
    (∃ t, exec (.tokenIn 0 15) waiting = .next t ∧ t.route = .rIn) ∧ (enableBitmap waiting).getLsbD (2 * 15 + 1) = false ∧
    (∃ t, exec (.tokenOut 0 15) waiting = .next t ∧ t.route = .rOut) ∧ (enableBitmap waiting).getLsbD (2 * 15) = false ∧
    waiting.route = .rWait ∧ waiting.stage = .tokenCheck ∧ waiting.addrEff = 0 ∧ debugIntercepts waiting 15 = false :=
  ⟨by decide, by decide +kernel, by decide, by decide +kernel, by decide, ⟨_, rfl, by decide⟩, by decide +kernel,
    ⟨_, rfl, by decide⟩, by decide +kernel, by decide, by decide, by decide, by decide⟩

/-- Every route, and in the data routes an endpoint that is enabled and armed, enabled and not armed, and disabled. -/
theorem witness_OutputsByRoute : booted.route = .rNone ∧ waiting.route = .rWait ∧ (inSetup 0).route = .rSetup ∧
    (waitingIn .controlIn).addrEff = 0 ∧ inStatusIn.route = .rStatusIn ∧
    (inIn [1]).enIn.getLsbD (inIn [1]).curEp.toNat = true ∧ ((inIn [1]).inQueued = true ∧ (inIn [1]).inEp = (inIn [1]).curEp) ∧
    ¬({ inIn [1] with inEp := 15 }.inQueued = true ∧ { inIn [1] with inEp := 15 }.inEp = (inIn [1]).curEp) ∧
    { inIn [1] with enIn := 0 }.enIn.getLsbD (inIn [1]).curEp.toNat = false ∧
    (inOut [] [1]).route = .rOut ∧ (outputs (inOut [] [1])).arm = true ∧ (outputs (inOut [] [])).arm = false ∧
    (outputs { inOut [] [1] with enOut := 0 }).stall = true ∧
    { booted with route := .rDebug, stage := .debug }.route = .rDebug ∧
    (inIn [1]).inQ = 1 :: [] ∧ (outputs (inIn [1])).txHave = true ∧ (outputs (inIn [])).txHave = false := by decide

theorem witness_OutRearm : (inOut [] [1]).route = .rOut ∧ (∃ t, exec (.txnEnd true) (inOut [] [1]) = .next t) ∧
    { inOut [] [1] with outEn := false }.outEn = false ∧
    (∃ t, exec (.wrOutCtrl 0x2) { booted with outEn := false } = .next t ∧ t.outEn = true) ∧
    { inOut [] [1] with enOut := 0 }.enOut.getLsbD (inOut [] [1]).curEp.toNat = false ∧
    (inOut [] [1]).enOut.getLsbD (inOut [] [1]).curEp.toNat = true ∧ (inOut [] [1]).outEn = true ∧
    (inOut [] [1]).outRx ≠ [] ∧ (inOut [] [1]).outOvf = false ∧ (inOut [1] []).outQ ≠ [] ∧
    ((inOut [] []).outQ = [] ∧ (inOut [] []).outRx = []) ∧ { inOut [] [1] with outOvf := true }.outOvf = true ∧
    { booted with route := .rStatusOut, stage := .waitDone }.route = .rStatusOut :=
  ⟨rfl, ⟨_, rfl⟩, rfl, ⟨_, rfl, rfl⟩, by decide⟩

theorem witness_CpuStepKeepsProtocolState : (Instr.wrOutCtrl 0x3).agent = .control ∧
    ∃ t, exec (.wrOutCtrl 0x3) (inOut [1] [2]) = .next t := ⟨rfl, _, rfl⟩

theorem witness_ProtocolStepKeepsCpuState : (Instr.txnEnd true).agent = .protocol ∧
    ∃ t, exec (.txnEnd true) (inOut [1] [2]) = .next t ∧ t.outEn = false := ⟨rfl, _, rfl, rfl⟩

theorem witness_PendingBitsFollowTheirEvents :
    (∃ t, exec (.txnEnd true) (inSetup 10) = .next t ∧ (inSetup 10).evPend.getLsbD 0 = false ∧ t.evPend.getLsbD 0 = true) ∧
    (∃ t, exec (.txnEnd true) (inIn []) = .next t ∧ (inIn []).evPend.getLsbD 1 = false ∧ t.evPend.getLsbD 1 = true) ∧
    (∃ t, exec (.txnEnd true) (inOut [] [1]) = .next t ∧ (inOut [] [1]).evPend.getLsbD 2 = false ∧
      t.evPend.getLsbD 2 = true) ∧
    (∃ t, exec (.wrEvPending 1) (recorded 0) = .next t ∧ (recorded 0).evPend.getLsbD 0 = true ∧
      t.evPend.getLsbD 0 = false) :=
  ⟨⟨_, rfl, by decide, by decide⟩, ⟨_, rfl, by decide, by decide⟩, ⟨_, rfl, by decide, by decide⟩,
    ⟨_, rfl, by decide, by decide⟩⟩

theorem witness_ToggleChangesInTwoWays :
    (∃ t, exec (.txnEnd true) (inIn []) = .next t ∧ (inIn []).dtb.getLsbD 0 = true ∧ t.dtb.getLsbD 0 = false ∧
      t.dtb.getLsbD 15 = true) ∧
    (∃ t, exec (.txnEnd true) { inSetup 10 with dtb := 0, curEp := 15 } = .next t ∧ t.dtb.getLsbD 15 = true ∧
      t.dtb.getLsbD 0 = false) ∧
    ∃ t, exec .dend (inIn []) = .next t :=
  ⟨⟨_, rfl, by decide⟩, ⟨_, rfl, by decide⟩, _, rfl⟩

theorem witness_CountersOnlyCountTheirEvents : CounterInv waiting ∧ (∃ t, exec .err waiting = .next t) ∧
    (∃ t, exec (.nop false) waiting = .next t) ∧ (∃ t, exec (.tokenInvalidMdata 0 0) waiting = .next t) ∧
    (∃ (pid : BitVec 4) (addr : DevAddr) (ep : EpNum), Instr.tokenInvalidMdata 0 0 = decodeToken pid addr ep ∧
      pid ≠ 0x1#4 ∧ pid ≠ 0x9#4 ∧ pid ≠ 0x5#4 ∧ pid ≠ 0xD#4) :=
  ⟨by unfold CounterInv; decide, ⟨_, rfl⟩, ⟨_, rfl⟩, ⟨_, rfl⟩, 0xF, 0, 0, by decide⟩

theorem witness_AddressIsLatchedInIdle :
    (∃ t, exec .dend { booted with addrReg := 3 } = .next t ∧ t.addrEff ≠ booted.addrEff) ∧
    (∃ t, exec .brst { waiting with addrEff := 3 } = .next t ∧ t.addrEff ≠ 3) :=
  ⟨⟨_, rfl, by decide⟩, ⟨_, rfl, by decide⟩⟩

theorem witness_ResetPulseIsOneStepPerError : Instr.err.agent = .protocol ∧ ∃ t, exec .err booted = .next t :=
  ⟨rfl, _, rfl⟩

/-! ### The transfer core's contract (60 R330) -/

/-- T3: DEND of a SETUP comes after ten bytes, no sooner and no later; an OUT packet may have any number. -/
theorem test_contract_setup_bytes : coreAllows (.receiving 9) (inSetup 9) .dend = false ∧
    coreAllows (.receiving 9) (inSetup 9) (.rxb 0) = true ∧ coreAllows (.receiving 10) (inSetup 10) .dend = true ∧
    coreAllows (.receiving 10) (inSetup 10) (.rxb 0) = false ∧ coreAllows (.receiving 0) (inOut [] []) .dend = true ∧
    coreAllows (.receiving 128) (inOut [] []) (.rxb 0) = true := by decide

/-- V-IN-6: a TXPOP empties the queue, and then the CPU pushes a byte. A core that looked in between has seen
`tx_have = 0` and gives DEND; one that looks after the push sends the byte too. V-IN-7: a flush, and then the TXPOP. -/
theorem test_contract_late_push :
    let s := inIn [0x5A]
    let p := coreAdvance (.sending true false) .txpop { s with inQ := [] }
    let q := coreAdvance p (.wrInData 0x5B) { s with inQ := [0x5B] }
    p = .sending false true ∧ coreAllows p { s with inQ := [] } .txpop = false ∧
      coreAllows p { s with inQ := [] } .dend = true ∧ q = .sending true true ∧
      coreAllows q { s with inQ := [0x5B] } .dend = true ∧ coreAllows q { s with inQ := [0x5B] } .txpop = true ∧
      coreAllows (.sending true false) s .dend = false ∧
      coreAllows (coreAdvance (.sending true false) (.wrInCtrl 0x10) { s with inQ := [], inQueued := false })
        { s with inQ := [], inQueued := false } .txpop = true := by decide

/-- T1: a transaction the debug bridge took ends with its END, also after DBG A = 0 has closed the route (41 R172). -/
theorem test_contract_bridged : let s := { debugging booted with route := .rDebug, stage := .debug }
    coreAdvance .bridged (.dbg false) booted = .bridged ∧ coreAllows .bridged s (.txnEnd false) = true ∧
      coreAllows .bridged booted (.txnEnd true) = true ∧ coreAllows .bridged booted .start = false := by decide

/-- T2, T4: after the token an armed endpoint sends, an unarmed one answers NAK and may not be committed. -/
theorem test_contract_after_token : afterToken (inIn [1]) = .sending true false ∧ afterToken (inIn []) = .sending false true ∧
    afterToken { inIn [1] with inEp := 1 } = .declined ∧ afterToken { inIn [1] with enIn := 0 } = .declined ∧
    coreAllows .declined (inIn []) (.txnEnd true) = false ∧ coreAllows .sent (inIn []) (.txnEnd true) = true ∧
    coreAllows (.answered false) (inOut [] []) (.txnEnd true) = false := by decide

/-- The last byte of a SETUP, the DEND of a SETUP and of an OUT packet, a TXPOP, an END, a token, and the DBG that closes
a transaction of the bridge. -/
theorem witness_ContractKeepsPhaseInv :
    let d := { debugging booted with route := .rDebug, stage := .debug }
    ∀ x ∈ [(CorePhase.receiving 9, inSetup 9, Instr.rxb 0), (.receiving 10, inSetup 10, .dend),
        (.receiving 1, inOut [] [1], .dend), (.sending true false, inIn [1], .txpop),
        (.answered true, inOut [] [1], .txnEnd true), (.sent, inIn [], .txnEnd true), (.started, waiting, .tokenIn 0 0),
        (.bridged, d, .dbg false), (.bridged, booted, .txnEnd false), (.between, booted, .wrInData 1)],
      EngineInv x.2.1 ∧ PhaseInv x.1 x.2.1 ∧ coreAllows x.1 x.2.1 x.2.2 = true ∧ ∃ t, exec x.2.2 x.2.1 = .next t := by
  simp only [List.forall_mem_cons, PhaseInv]
  unfold EngineInv RouteInv QueueInv StagedInv RecordInv CounterInv DebugInv PulseInv
  refine ⟨⟨?_, ?_, rfl, _, rfl⟩, ⟨?_, ?_, rfl, _, rfl⟩, ⟨?_, ?_, rfl, _, rfl⟩, ⟨?_, ?_, rfl, _, rfl⟩,
    ⟨?_, ?_, rfl, _, rfl⟩, ⟨?_, ?_, rfl, _, rfl⟩, ⟨?_, ?_, rfl, _, rfl⟩, ⟨?_, ?_, rfl, _, rfl⟩, ⟨?_, ?_, rfl, _, rfl⟩,
    ⟨?_, ?_, rfl, _, rfl⟩, by simp⟩
  all_goals decide +kernel

/-- START, TOKEN OUT, one byte, DEND: the packet is acknowledged, and the core may commit it. -/
theorem witness_CommittedOutPacketIsWhole : ∃ t p, booted.route = .rNone ∧ ContractRun booted .between t p ∧
    t.route = .rOut ∧ coreAllows p t (.txnEnd true) = true ∧ t.outRx = [0x01] :=
  ⟨_, _, rfl, .tail .dend (.tail (.rxb 0x01) (.tail (.tokenOut 0 0) (.tail .start (.refl booted .between) rfl rfl)
    rfl rfl) rfl rfl) rfl rfl, rfl, rfl, rfl⟩

end Sys2Proof.Tests
end

