-- ==== Sys2Proof/Proofs/Scope.lean ====
section
/-! PROOFS. The step around the instruction (00 R7, R8): what one step runs, and what no step changes (00 R10). -/

namespace Sys2Proof.Machine

/-! ### The step by its input words -/

theorem step_of_inputs_nil {s : State} (h : s.inputs = []) : step s = .next s := by
  simp [step, h]

theorem step_of_inputs_cons {s : State} {w : InputWord} {rest : List InputWord} (h : s.inputs = w :: rest) :
    step s = exec (decode w) (consume rest s) := by
  simp [step, h]

/-- A word placed in front is the one the step takes, so the words behind it are those of the state before. -/
theorem step_withFetchWord (s : State) (nbits w : Nat) :
    step (s.withFetchWord nbits w) = exec (decode (InputWord.ofTable nbits w)) (consume s.inputs s) := rfl

/-! ### The agent of a decoded protocol event word -/

theorem decodeToken_agent (pid : BitVec 4) (addr : DevAddr) (ep : EpNum) :
    (decodeToken pid addr ep).agent = .protocol := by
  unfold decodeToken
  split <;> rfl

/-- A PEW decodes to an instruction of the protocol agent, whatever its KIND (30 R90). -/
theorem decodePew_agent (w : BitVec 24) : (decodePew w).agent = .protocol := by
  unfold decodePew
  split
  case h_3 => exact decodeToken_agent _ _ _
  all_goals rfl

/-! ### What an instruction leaves unchanged -/

/-- No protocol event touches what the CPU owns, a committed END included. -/
theorem eventOf_sameCpu {i : Instr} (s : State) (hi : i.agent = .protocol) : SameCpu s (eventOf i s) := by
  by_cases hc : i = .txnEnd true
  · obtain ⟨_, _, _, _, _, _, _, _, _, _, _, _, _, _, h⟩ := endTxn_frame s true
    rw [hc, show eventOf (.txnEnd true) s = endTxn s true from rfl, h]
    exact ⟨rfl, rfl, rfl, rfl, rfl, rfl, rfl, rfl, List.suffix_refl _⟩
  · exact (eventOf_frame s hi hc).2

theorem protocolFrame_sameCpu (s : State) : SameCpu s (protocolFrame s) := by
  constructor <;> simp

theorem SameCpu.trans {s t u : State} (hst : SameCpu s t) (htu : SameCpu t u) : SameCpu s u where
  cfg := htu.cfg.trans hst.cfg
  inputs := htu.inputs.trans hst.inputs
  readData := htu.readData.trans hst.readData
  drawIdx := htu.drawIdx.trans hst.drawIdx
  enOut := htu.enOut.trans hst.enOut
  enIn := htu.enIn.trans hst.enIn
  inEp := htu.inEp.trans hst.inEp
  evEn := htu.evEn.trans hst.evEn
  inQ := htu.inQ.trans hst.inQ

/-- A protocol instruction, its frame included, touches nothing the CPU owns. -/
theorem exec_protocol_sameCpu {i : Instr} {s t : State} (hi : i.agent = .protocol) (h : exec i s = .next t) :
    SameCpu s t := by
  rw [exec_protocol_next hi h]
  exact (protocolFrame_sameCpu s).trans (eventOf_sameCpu _ hi)

/-- No instruction of either agent changes the parameters or the words still to come. -/
theorem exec_next_cfg_inputs {i : Instr} {s t : State} (h : exec i s = .next t) :
    t.cfg = s.cfg ∧ t.inputs = s.inputs := by
  cases hi : i.agent
  case protocol =>
    have hk := exec_protocol_sameCpu hi h
    exact ⟨hk.cfg, hk.inputs⟩
  case control =>
    obtain ⟨_, _, _, _, _, _, _, _, _, _, _, _, rfl⟩ := exec_control_next hi h
    exact ⟨rfl, rfl⟩

/-! ### What a step leaves unchanged -/

/-- Of its own part a step only takes the oldest word: the parameters stay, and the words behind it. -/
theorem step_next_cfg_inputs {s t : State} (h : step s = .next t) :
    t.cfg = s.cfg ∧ t.inputs = s.inputs.tail := by
  cases hs : s.inputs with
  | nil =>
    rw [step_of_inputs_nil hs] at h
    cases h
    exact ⟨rfl, hs⟩
  | cons w rest =>
    rw [step_of_inputs_cons hs] at h
    exact exec_next_cfg_inputs h

/-- The step of a protocol event returns nothing to the CPU: it clears the read port, and no event fills it. -/
theorem step_pew_readData {s t : State} {w : BitVec 24} {rest : List InputWord} (hs : s.inputs = .pew w :: rest)
    (h : step s = .next t) : t.readData = none := by
  rw [step_of_inputs_cons hs] at h
  exact (exec_protocol_sameCpu (decodePew_agent w) h).readData

end Sys2Proof.Machine

open Sys2Proof.Machine

/-- Settles O14: a step only takes the oldest word, and no instruction of either agent changes the parameters or the
words still to come. -/
theorem stepKeepsParameters : Obligations.StepKeepsParameters := fun _ _ h =>
  have ⟨hcfg, hinputs⟩ := step_next_cfg_inputs h
  ⟨hcfg, hinputs, fun _ _ hs => step_pew_readData hs h⟩

/-- Settles O7: the three equations of the step, with the step's own part written out. -/
theorem stepRunsTheNextWord : Obligations.StepRunsTheNextWord :=
  ⟨fun _ _ _ => step_of_inputs_cons, fun _ => step_of_inputs_nil, step_withFetchWord⟩
end

