-- ==== Sys2Proof/Proofs/State.lean ====
section
/-! PROOFS. The state of 10_state.md: the invariant every step keeps (10 R24 to R36) and that of the core's contract
(60 R330), what the registers show of the state (10 R32, R39), and the outputs it drives (10 R30, R35 to R38). -/

namespace Sys2Proof.Machine

/-! ### The reset output after a protocol event -/

theorem endTxn_rstPulse (s : State) (c : Bool) : (endTxn s c).rstPulse = s.rstPulse := by
  obtain ⟨_, _, _, _, _, _, _, _, _, _, _, _, _, _, h⟩ := endTxn_frame s c
  rw [h]

theorem tokenPrelude_rstPulse (s : State) : (tokenPrelude s).rstPulse = s.rstPulse := by
  obtain ⟨_, _, _, _, h⟩ := tokenPrelude_frame s
  rw [h]

/-- A token raises no reset output, whichever way it goes, if its own routing raises none. -/
theorem addressedToken_rstPulse (accept : EpNum → State → State) (addr : DevAddr) (ep : EpNum) (s : State)
    (h : ∀ u, (accept ep u).rstPulse = u.rstPulse) : (addressedToken accept addr ep s).rstPulse = s.rstPulse := by
  rcases addressedToken_cases accept addr ep s with ⟨-, e⟩ | ⟨-, -, e⟩ | ⟨-, -, e⟩
  · rw [e, tokenIgnored_eq, ← tokenPrelude_rstPulse s]
  · rw [e, debugEnter_rstPulse, tokenPrelude_rstPulse]
  · rw [e, h, tokenPrelude_rstPulse]

theorem tokenData_rstPulse (d : Dir) (ep : EpNum) (s : State) : (tokenData d ep s).rstPulse = s.rstPulse := by
  obtain ⟨_, _, h⟩ := routeData_frame { s with curEp := ep } d
  rw [tokenData, h]

theorem nopEvent_rstPulse (i : Bool) (s : State) : (nopEvent i s).rstPulse = s.rstPulse := by
  unfold nopEvent
  split
  · cases i
    · rfl
    · simp [leaveStage_eq]
  · rfl

theorem rxByteEvent_rstPulse (b : Byte) (s : State) : (rxByteEvent b s).rstPulse = s.rstPulse := by
  unfold rxByteEvent
  split
  · obtain ⟨_, _, _, _, h⟩ := setupReceive_frame s b
    rw [h]
  · obtain ⟨_, _, _, h⟩ := outReceive_frame s b
    rw [h]
  all_goals rfl

theorem txPopEvent_rstPulse (s : State) : (txPopEvent s).rstPulse = s.rstPulse := by
  obtain ⟨_, -, h⟩ := inAdvance_frame s
  unfold txPopEvent
  split
  iterate 2 rw [h]
  all_goals rfl

theorem debugEvent_rstPulse (a : Bool) (s : State) : (debugEvent a s).rstPulse = s.rstPulse := by
  unfold debugEvent
  split
  · split <;> rfl
  · rfl

theorem errorEvent_rstPulse (s : State) : (errorEvent s).rstPulse = true := by
  simp only [errorEvent, abandon_eq, endTxn_rstPulse]

/-- Of the protocol events ERR alone raises the reset output (60 R300). -/
theorem eventOf_rstPulse {i : Instr} (s : State) (hi : i.agent = .protocol) (hne : i ≠ .err) :
    (eventOf i s).rstPulse = s.rstPulse := by
  cases i <;> simp only [Instr.agent, reduceCtorEq] at hi
  case nop i => exact nopEvent_rstPulse i s
  case start => exact startTxn_rstPulse s
  case tokenOut addr ep => exact addressedToken_rstPulse _ _ _ _ (tokenData_rstPulse _ _)
  case tokenIn addr ep => exact addressedToken_rstPulse _ _ _ _ (tokenData_rstPulse _ _)
  case tokenSetup addr ep => exact addressedToken_rstPulse _ _ _ _ fun _ => rfl
  case rxb b => exact rxByteEvent_rstPulse b s
  case txpop => exact txPopEvent_rstPulse s
  case txnEnd c => exact endTxn_rstPulse s c
  case err => exact absurd rfl hne
  case brst => exact endTxn_rstPulse s false
  case dbg a => exact debugEvent_rstPulse a s
  case tokenSof addr ep => rw [eventOf, Machine.tokenSof, tokenIgnored_eq, ← tokenPrelude_rstPulse s]
  case dend | reservedKindAB | reservedKindCF => rfl
  all_goals exact tokenPrelude_rstPulse s

/-- After a protocol step the reset output is that of its event, since the frame has lowered it (40 R120). -/
theorem exec_protocol_rstPulse {i : Instr} {s t : State} (hi : i.agent = .protocol) (h : exec i s = .next t) :
    t.rstPulse = decide (i = .err) := by
  rw [exec_protocol_next hi h]
  by_cases he : i = .err
  · rw [he]
    exact errorEvent_rstPulse _
  · rw [eventOf_rstPulse _ hi he, protocolFrame_rstPulse, decide_eq_false he]

/-! ### What a CPU access changes -/

/-- A CPU instruction runs one of the four writes of the handlers' control and data registers, or changes none of the
handlers' fields. -/
theorem exec_control_cases {i : Instr} {s t : State} (hi : i.agent = .control) (h : exec i s = .next t) :
    (∃ d, i = .wrOutCtrl d ∧ t = outControl s (fieldAdvance d) (fieldEnable d)) ∨
    (∃ d, i = .wrInData d ∧ t = inPush s (fieldByte d)) ∨
    (∃ d, i = .wrInCtrl d ∧ t = if fieldReset d then inFlush s else inArm s (fieldEpno d)) ∨
    (∃ d, i = .wrSetupAdvance d ∧ t = setupAdvance s) ∨
    ((∀ d, i ≠ .wrOutCtrl d) ∧ ∃ rdData addr eo ei pend en, t = { s with
      readData := rdData, addrReg := addr, enOut := eo, enIn := ei, evPend := pend, evEn := en }) := by
  cases i <;> simp only [Instr.agent, reduceCtorEq] at hi <;> cases h
  case wrOutCtrl d => exact .inl ⟨d, rfl, rfl⟩
  case wrInData d => exact .inr (.inl ⟨d, rfl, rfl⟩)
  case wrInCtrl d => exact .inr (.inr (.inl ⟨d, rfl, rfl⟩))
  case wrSetupAdvance d => exact .inr (.inr (.inr (.inl ⟨d, rfl, rfl⟩)))
  all_goals exact .inr (.inr (.inr (.inr ⟨fun _ => by simp, _, _, _, _, _, _, rfl⟩)))

/-! ### The invariant by parts -/

theorem isResting_iff (g : Stage) : g.isResting = true ↔ g = .idle ∨ g.isControl = true := by cases g <;> decide

theorem allows_debug_iff (r : Route) : Stage.allows .debug r = true ↔ r = .rDebug := by cases r <;> decide

/-- `EngineInv` without its clause on the reset output, which an event is free to raise. -/
def TransactionInv (s : State) : Prop :=
  RouteInv s ∧ QueueInv s ∧ StagedInv s ∧ RecordInv s ∧ CounterInv s ∧ DebugInv s

theorem engineInv_iff (s : State) : EngineInv s ↔ TransactionInv s ∧ PulseInv s := by
  simp only [EngineInv, TransactionInv, and_assoc]

/-- The part of the invariant that does not speak of the transaction, where no OUT packet is staged. It is the same
statement after any change of stage, route, endpoint, address, enables, events or toggles. -/
def Quiet (s : State) : Prop :=
  QueueInv s ∧ (s.outRx = [] ∧ s.outOvf = false ∧ s.outIdle = true) ∧ s.setupRd.val ≤ s.setupLen.val ∧ CounterInv s ∧
    (s.cfg.debugPresent = false → s.debugActive = false)

theorem TransactionInv.quiet {s : State} (h : TransactionInv s) (hr : s.route ≠ .rOut) : Quiet s := by
  obtain ⟨-, hq, hs, hrec, hc, hd⟩ := h
  exact ⟨hq, hs hr, hrec.1, hc, fun hp => (hd hp).1⟩

/-- With no OUT packet staged, the invariant is what the stage and the route say of each other. -/
theorem Quiet.transactionInv {s : State} (h : Quiet s) (hallow : s.stage.allows s.route = true)
    (hep : s.route = .rStatusIn ∨ s.route = .rStatusOut ∨ s.route = .rDebug → s.curEp = 0)
    (hset : s.route = .rSetup → s.setupValid = false) (hdbg : s.stage = .debug → s.cfg.debugPresent = true) :
    TransactionInv s := by
  obtain ⟨hq, hs, hrec, hc, hd⟩ := h
  exact ⟨⟨hallow, hep⟩, hq, fun _ => hs, ⟨hrec, hset⟩, hc,
    fun hp => ⟨hd hp, fun hg => by simp [hdbg hg] at hp⟩⟩

/-- A state with no open transaction and nothing staged meets the invariant in every resting stage. -/
theorem Quiet.closed {s : State} (h : Quiet s) (hr : s.route = .rNone) (hg : s.stage.isResting = true) :
    TransactionInv s :=
  h.transactionInv (by rw [hr, allows_rNone_iff, hg]) (by simp [hr]) (by simp [hr])
    (fun e => by simp [e, Stage.isResting, Stage.isControl] at hg)

/-- A state that awaits a token with nothing staged meets the invariant in TOKEN_CHECK and the control stages. -/
theorem Quiet.awaiting {s : State} (h : Quiet s) (hr : s.route = .rWait)
    (hg : s.stage = .tokenCheck ∨ s.stage.isControl = true) : TransactionInv s :=
  h.transactionInv (by rw [hr, allows_rWait_iff]; exact hg) (by simp [hr]) (by simp [hr])
    (fun e => by simp [e, Stage.isControl] at hg)

theorem TransactionInv.stage_of_wait {s : State} (h : TransactionInv s) (hr : s.route = .rWait) :
    s.stage = .tokenCheck ∨ s.stage.isControl = true := by
  have hallow := h.1.1
  rwa [hr, allows_rWait_iff] at hallow

/-- Leaving the one stage that is not a control stage leaves the engine at rest. -/
theorem isResting_leave {g busy : Stage} (h : g = busy ∨ g.isControl = true) :
    (if g = busy then Stage.idle else g).isResting = true := by
  split
  · rfl
  · exact (isResting_iff g).2 (.inr (h.resolve_left ‹_›))

/-! ### Ending and opening a transaction -/

theorem setupNext_isResting (s : State) : (setupNext s).isResting = true := by
  unfold setupNext
  repeat' split
  all_goals rfl

/-- However it ends, a transaction leaves nothing staged. -/
theorem TransactionInv.quiet_endTxn {s : State} (h : TransactionInv s) (c : Bool) : Quiet (endTxn s c) := by
  by_cases hr : s.route = .rOut
  · obtain ⟨-, hq, -, hrec, hc, hd⟩ := h
    have hq' := hq.outEnd c
    rw [endTxn_rOut c hr]
    cases c <;> exact ⟨hq', ⟨rfl, rfl, rfl⟩, hrec.1, hc, fun hp => (hd hp).1⟩
  · have hquiet := h.quiet hr
    cases hr' : s.route
    case rNone => rwa [endTxn_rNone c hr']
    case rWait => rw [endTxn_rWait c hr']; exact hquiet
    case rSetup =>
      cases c
      · rw [endTxn_rSetup_uncommitted hr']; exact hquiet
      · obtain ⟨hq, hs, -, hc, hd⟩ := hquiet
        rw [endTxn_rSetup_commit hr']; exact ⟨hq, hs, Nat.zero_le _, hc, hd⟩
    case rIn => rw [endTxn_rIn c hr', inEnd_eq]; exact hquiet
    case rOut => exact absurd hr' hr
    case rStatusIn => rw [endTxn_rStatusIn c hr', inEnd_eq]; exact hquiet
    case rStatusOut => rw [endTxn_rStatusOut c hr']; exact hquiet
    case rDebug => rw [endTxn_rDebug c hr']; exact hquiet

/-- However it ends, a transaction leaves the engine in a resting stage (10 R24). -/
theorem RouteInv.endTxn_isResting {s : State} (h : RouteInv s) (c : Bool) : (endTxn s c).stage.isResting = true := by
  have hallow := h.1
  cases hr : s.route <;> rw [hr] at hallow
  case rNone => rw [endTxn_rNone c hr]; exact (allows_rNone_iff _).1 hallow
  case rWait => rw [endTxn_rWait c hr]; exact isResting_leave ((allows_rWait_iff _).1 hallow)
  case rSetup =>
    cases c
    · rw [endTxn_rSetup_uncommitted hr]; rfl
    · rw [endTxn_rSetup_commit hr]; exact setupNext_isResting s
  case rIn => rw [endTxn_rIn c hr]; exact isResting_leave ((allows_rIn_iff _).1 hallow)
  case rOut => rw [endTxn_rOut c hr]; exact isResting_leave ((allows_rOut_iff _).1 hallow)
  case rStatusIn => rw [endTxn_rStatusIn c hr]; rfl
  case rStatusOut => rw [endTxn_rStatusOut c hr]; rfl
  case rDebug => rw [endTxn_rDebug c hr]; rfl

theorem TransactionInv.endTxn {s : State} (h : TransactionInv s) (c : Bool) : TransactionInv (endTxn s c) :=
  (h.quiet_endTxn c).closed rfl (h.1.endTxn_isResting c)

theorem TransactionInv.abandon {s : State} (h : TransactionInv s) : TransactionInv (abandon s) :=
  Quiet.closed (s := Machine.abandon s) (h.quiet_endTxn false) rfl rfl

theorem TransactionInv.startTxn {s : State} (h : TransactionInv s) : TransactionInv (startTxn s) := by
  have hrest := h.1.endTxn_isResting false
  rw [startTxn_eq]
  refine Quiet.awaiting (h.quiet_endTxn false) rfl ?_
  dsimp only
  split
  · exact .inl rfl
  · next hne => exact .inr (((isResting_iff _).1 hrest).resolve_left hne)

theorem TransactionInv.tokenPrelude {s : State} (h : TransactionInv s) : TransactionInv (tokenPrelude s) := by
  unfold Machine.tokenPrelude
  split
  · exact h
  · exact h.startTxn

/-! ### Tokens -/

/-- A token that is awaited and not acted on closes the wait (40 R127, R128). -/
theorem TransactionInv.tokenIgnored {s : State} (h : TransactionInv s) (hr : s.route = .rWait) :
    TransactionInv (tokenIgnored s) := by
  rw [tokenIgnored_eq]
  exact Quiet.closed (h.quiet (by simp [hr])) rfl (isResting_leave (h.stage_of_wait hr))

theorem TransactionInv.tokenInvalid {s : State} (h : TransactionInv s) : TransactionInv (tokenInvalid s) := by
  have hp := h.tokenPrelude
  obtain ⟨hq, hs, hrec, ⟨herr, hinv, hwait⟩, hd⟩ := hp.quiet (by simp [tokenPrelude_route])
  obtain ⟨_, _, _, _, hcfg⟩ := tokenPrelude_frame s
  have hle : (satInc s.cfg (Machine.tokenPrelude s).invalidStateCount).toNat ≤ (Machine.tokenPrelude s).cfg.ctrMax := by
    rw [show (Machine.tokenPrelude s).cfg = s.cfg by rw [hcfg]] at hinv ⊢
    exact satInc_le_ctrMax _ _ hinv
  exact Quiet.closed (s := Machine.tokenInvalid s) ⟨hq, hs, hrec, ⟨herr, hle, hwait⟩, hd⟩ rfl rfl

/-- The debug bridge takes a token only where the debug stage is present (41 R173). -/
theorem TransactionInv.debugEnter {s : State} {e : EpNum} (h : TransactionInv s) (hr : s.route = .rWait)
    (hd : debugIntercepts s e = true) : TransactionInv (debugEnter s) := by
  refine Quiet.transactionInv (s := Machine.debugEnter s) (h.quiet (by simp [hr])) rfl (fun _ => rfl) nofun fun _ => ?_
  simp only [debugIntercepts, Bool.and_eq_true] at hd
  exact hd.1.1

theorem TransactionInv.tokenSetup {s : State} (h : TransactionInv s) (hr : s.route = .rWait) (ep : EpNum) :
    TransactionInv (tokenSetup ep s) := by
  obtain ⟨hq, hs, -, hc, hd⟩ := h.quiet (by simp [hr])
  exact Quiet.transactionInv (s := Machine.tokenSetup ep s) ⟨hq, hs, Nat.le_refl 0, hc, hd⟩ rfl
    (by simp [Machine.tokenSetup]) (fun _ => rfl) nofun

/-- A data token opens a route that its stage allows, and a status route on endpoint 0 alone (41 R160). -/
theorem routeData_routeInv {s : State} (hg : s.stage = .tokenCheck ∨ s.stage.isControl = true) (d : Dir) :
    RouteInv (routeData s d) := by
  unfold routeData
  split
  · cases d <;> exact ⟨rfl, nofun⟩
  · next hne =>
    have hctl := hg.resolve_left hne
    split
    · refine ⟨?_, by cases d <;> simp [genericRoute]⟩
      cases d
      · exact (allows_rOut_iff _).2 (.inr hctl)
      · exact (allows_rIn_iff _).2 (.inr hctl)
    · next hep =>
      have hep : s.curEp = 0 := by simpa using hep
      cases hs : s.stage <;> simp only [hs, Stage.isControl, Bool.false_eq_true] at hctl <;> cases d <;>
        exact ⟨by simp [Stage.allows], fun _ => hep⟩

/-- Neither the debug route nor the SETUP route is opened by a data token. -/
theorem routeData_route_ne {s : State} (hr : s.route = .rWait) (d : Dir) :
    (routeData s d).route ≠ .rSetup ∧ (routeData s d).route ≠ .rDebug := by
  unfold routeData
  split
  · cases d <;> simp
  · split
    · cases d <;> simp [genericRoute]
    · split <;> simp [hr]

theorem TransactionInv.tokenData {s : State} (h : TransactionInv s) (hr : s.route = .rWait) (d : Dir) (ep : EpNum) :
    TransactionInv (tokenData d ep s) := by
  have hquiet := h.quiet (by simp [hr])
  have hroute := routeData_routeInv (s := { s with curEp := ep }) (h.stage_of_wait hr) d
  have hne := routeData_route_ne (s := { s with curEp := ep }) hr d
  obtain ⟨r, g, he⟩ := routeData_frame { s with curEp := ep } d
  rw [Machine.tokenData]
  rw [he] at hroute hne ⊢
  obtain ⟨hallow, hep⟩ := hroute
  refine Quiet.transactionInv hquiet hallow hep (fun e => absurd e hne.1) fun hg => absurd ?_ hne.2
  exact (allows_debug_iff _).1 (hg ▸ hallow)

theorem TransactionInv.addressedToken {s : State} (h : TransactionInv s) (accept : EpNum → State → State)
    (addr : DevAddr) (ep : EpNum)
    (haccept : ∀ u, TransactionInv u → u.route = .rWait → TransactionInv (accept ep u)) :
    TransactionInv (addressedToken accept addr ep s) := by
  have hr := tokenPrelude_route s
  rcases addressedToken_cases accept addr ep s with ⟨-, e⟩ | ⟨-, hd, e⟩ | ⟨-, -, e⟩
  · rw [e]; exact h.tokenPrelude.tokenIgnored hr
  · rw [e]; exact h.tokenPrelude.debugEnter hr hd
  · rw [e]; exact haccept _ h.tokenPrelude hr

/-! ### The other protocol events -/

theorem TransactionInv.nopEvent {s : State} (h : TransactionInv s) (i : Bool) : TransactionInv (nopEvent i s) := by
  unfold Machine.nopEvent
  split
  · next hr =>
    cases i
    · obtain ⟨hroute, hq, hs, hrec, ⟨herr, hinv, hwait⟩, hd⟩ := h
      exact ⟨hroute, hq, hs, hrec, ⟨herr, hinv, satInc_le_ctrMax _ _ hwait⟩, hd⟩
    · exact h.tokenIgnored hr
  · exact h

theorem TransactionInv.rxByteEvent {s : State} (h : TransactionInv s) (b : Byte) :
    TransactionInv (rxByteEvent b s) := by
  unfold Machine.rxByteEvent
  split
  · obtain ⟨_, _, _, _, he⟩ := setupReceive_frame s b
    rw [he]; exact h
  · next hr =>
    obtain ⟨hroute, hq, -, hrec, hc, hd⟩ := h
    have hq' := hq.outReceive b
    obtain ⟨_, _, _, he⟩ := outReceive_frame s b
    rw [he] at hq' ⊢
    exact ⟨hroute, hq', fun hne => absurd hr hne, hrec, hc, hd⟩
  all_goals exact h

theorem TransactionInv.inAdvance {s : State} (h : TransactionInv s) : TransactionInv (inAdvance s) := by
  obtain ⟨hroute, hq, hs, hrec, hc, hd⟩ := h
  have hq' := hq.inAdvance
  obtain ⟨_, -, he⟩ := inAdvance_frame s
  rw [he] at hq' ⊢
  exact ⟨hroute, hq', hs, hrec, hc, hd⟩

theorem TransactionInv.txPopEvent {s : State} (h : TransactionInv s) : TransactionInv (txPopEvent s) := by
  unfold Machine.txPopEvent
  split
  iterate 2 exact h.inAdvance
  all_goals exact h

theorem TransactionInv.errorEvent {s : State} (h : TransactionInv s) : TransactionInv (errorEvent s) := by
  obtain ⟨hroute, hq, hs, hrec, ⟨herr, hinv, hwait⟩, hd⟩ := h
  exact TransactionInv.abandon ⟨hroute, hq, hs, hrec, ⟨satInc_le_ctrMax _ _ herr, hinv, hwait⟩, hd⟩

theorem TransactionInv.debugEvent {s : State} (h : TransactionInv s) (a : Bool) : TransactionInv (debugEvent a s) := by
  unfold Machine.debugEvent
  split
  · next hp =>
    split
    · next hr =>
      obtain ⟨hq, hs, hrec, hc, -⟩ := h.quiet (by simp [hr.2])
      exact Quiet.closed ⟨hq, hs, hrec, hc, fun hnp => by simp [hp] at hnp⟩ rfl rfl
    · obtain ⟨hroute, hq, hs, hrec, hc, -⟩ := h
      exact ⟨hroute, hq, hs, hrec, hc, fun hnp => by simp [hp] at hnp⟩
  · exact h

/-! ### Every step -/

theorem TransactionInv.eventOf {i : Instr} {s : State} (h : TransactionInv s) (hi : i.agent = .protocol) :
    TransactionInv (eventOf i s) := by
  cases i <;> simp only [Instr.agent, reduceCtorEq] at hi
  case nop i => exact h.nopEvent i
  case start => exact h.startTxn
  case tokenOut addr ep => exact h.addressedToken _ addr ep fun _ hu hr => hu.tokenData hr _ ep
  case tokenSof addr ep => exact h.tokenPrelude.tokenIgnored (tokenPrelude_route s)
  case tokenIn addr ep => exact h.addressedToken _ addr ep fun _ hu hr => hu.tokenData hr _ ep
  case tokenSetup addr ep => exact h.addressedToken _ addr ep fun _ hu hr => hu.tokenSetup hr ep
  case rxb b => exact h.rxByteEvent b
  case txpop => exact h.txPopEvent
  case txnEnd c => exact h.endTxn c
  case err => exact h.errorEvent
  case brst => exact h.abandon
  case dbg a => exact h.debugEvent a
  case dend | reservedKindAB | reservedKindCF => exact h
  all_goals exact h.tokenInvalid

theorem TransactionInv.protocolFrame {s : State} (h : TransactionInv s) : TransactionInv (protocolFrame s) := by
  rw [protocolFrame_eq]
  exact h

/-- The reset output is high after an ERR alone, which leaves the engine in IDLE (60 R300). -/
theorem exec_protocol_pulseInv {i : Instr} {s t : State} (hi : i.agent = .protocol) (h : exec i s = .next t) :
    PulseInv t := by
  intro hp
  rw [exec_protocol_rstPulse hi h, decide_eq_true_iff] at hp
  rw [exec_protocol_next hi h, hp]
  exact ⟨rfl, rfl⟩

theorem RecordInv.setupAdvance {s : State} (h : RecordInv s) : RecordInv (setupAdvance s) := by
  unfold Machine.setupAdvance
  split
  · next hlt => exact ⟨hlt.2, h.2⟩
  · exact h

/-- A CPU access keeps the invariant: only the byte queues and the record's read pointer are at risk. -/
theorem EngineInv.exec_control {i : Instr} {s t : State} (h : EngineInv s) (hi : i.agent = .control)
    (hx : exec i s = .next t) : EngineInv t := by
  obtain ⟨hroute, hq, hs, hrec, hc, hd, hp⟩ := h
  rcases exec_control_cases hi hx with ⟨d, -, rfl⟩ | ⟨d, -, rfl⟩ | ⟨d, -, rfl⟩ | ⟨d, -, rfl⟩ |
    ⟨-, _, _, _, _, _, _, rfl⟩
  · exact ⟨hroute, hq.outControl _ _, hs, hrec, hc, hd, hp⟩
  · have hq' := hq.inPush (fieldByte d)
    obtain ⟨_, he⟩ := inPush_frame s (fieldByte d)
    rw [he] at hq' ⊢
    exact ⟨hroute, hq', hs, hrec, hc, hd, hp⟩
  · split
    · exact ⟨hroute, ⟨Nat.zero_le _, hq.2⟩, hs, hrec, hc, hd, hp⟩
    · obtain ⟨_, _, he⟩ := inArm_frame s (fieldEpno d)
      rw [he]
      exact ⟨hroute, hq, hs, hrec, hc, hd, hp⟩
  · have hrec' := hrec.setupAdvance
    obtain ⟨_, he⟩ := setupAdvance_frame s
    rw [he] at hrec' ⊢
    exact ⟨hroute, hq, hs, hrec', hc, hd, hp⟩
  · exact ⟨hroute, hq, hs, hrec, hc, hd, hp⟩

/-- Every instruction of either agent keeps the engine's invariant. -/
theorem EngineInv.exec {i : Instr} {s t : State} (h : EngineInv s) (hx : exec i s = .next t) : EngineInv t := by
  cases hi : i.agent
  case protocol =>
    refine (engineInv_iff t).2 ⟨?_, exec_protocol_pulseInv hi hx⟩
    rw [exec_protocol_next hi hx]
    exact ((engineInv_iff s).1 h).1.protocolFrame.eventOf hi
  case control => exact h.exec_control hi hx

theorem EngineInv.consume {s : State} (h : EngineInv s) (rest : List InputWord) : EngineInv (consume rest s) := h

/-! ### Where the core stands, after each kind of word -/

theorem txHaveSignal_protocolFrame (s : State) : txHaveSignal (protocolFrame s) = txHaveSignal s := by
  rw [protocolFrame_eq]
  rfl

/-- The frame resets the SETUP byte counter in IDLE alone, where no SETUP is open (40 R120, 10 R24). -/
theorem protocolFrame_setupIdx_of_rSetup {s : State} (h : RouteInv s) (hr : s.route = .rSetup) :
    (protocolFrame s).setupIdx = s.setupIdx := by
  have hg : s.stage = .setup := (allows_rSetup_iff _).1 (hr ▸ h.1)
  simp [hg]

theorem PhaseInv.protocolFrame {p : CorePhase} {s : State} (h : PhaseInv p s) (hroute : RouteInv s) :
    PhaseInv p (protocolFrame s) := by
  have hidx := protocolFrame_setupIdx_of_rSetup hroute
  cases p
  case receiving n =>
    obtain ⟨hrec, hbytes⟩ := h
    refine ⟨by simpa using hrec, fun hr => ?_⟩
    rw [protocolFrame_route] at hr
    rw [hidx hr]
    exact hbytes hr
  case sending => simpa only [PhaseInv, protocolFrame_route, txHaveSignal_protocolFrame] using h
  case answered ack =>
    rcases h with h | ⟨hr, hack, hi⟩ | h | h
    · exact .inl (by simpa using h)
    · exact .inr (.inl ⟨by simpa using hr, hack, by rw [hidx hr, hi]⟩)
    · exact .inr (.inr (.inl (by simpa using h)))
    · exact .inr (.inr (.inr (by simpa using h)))
  all_goals simpa only [PhaseInv, protocolFrame_route] using h

/-- A wait is open only where the core has given START and no token (T1). -/
theorem PhaseInv.started_of_wait {p : CorePhase} {s : State} (h : PhaseInv p s) (hr : s.route = .rWait) :
    p = .started := by
  cases p <;> simp [PhaseInv, hr, Route.receives] at h ⊢

/-- The debug route is open only where the bridge took the transaction (T9). -/
theorem PhaseInv.bridged_of_debug {p : CorePhase} {s : State} (h : PhaseInv p s) (hr : s.route = .rDebug) :
    p = .bridged := by
  cases p <;> simp [PhaseInv, hr, Route.receives] at h ⊢

/-- NOP: an idle bus closes the wait, and the core knows it; a busy one is counted and changes no phase (T8). -/
theorem PhaseInv.nop {p : CorePhase} {s : State} (h : PhaseInv p s) (i : Bool) :
    PhaseInv (coreAdvance p (.nop i) (nopEvent i s)) (nopEvent i s) := by
  by_cases hr : s.route = .rWait
  · obtain rfl := h.started_of_wait hr
    cases i
    · simp [coreAdvance, Machine.keepWatch, Machine.nopEvent, hr, PhaseInv]
    · simp [coreAdvance, Machine.nopEvent, hr, PhaseInv, leaveStage_eq]
  · have hp : p ≠ .started := by rintro rfl; exact hr h
    simpa [coreAdvance, Machine.nopEvent, hr, hp] using h.keepWatch rfl rfl rfl

/-- No token but a SETUP opens the SETUP route, and a SETUP begins with its byte counter at 0 (42 R190). -/
theorem addressedToken_setupIdx {accept : EpNum → State → State} {addr : DevAddr} {ep : EpNum} {s : State}
    (haccept : ∀ u, u.route = .rWait → (accept ep u).route = .rSetup → (accept ep u).setupIdx = 0)
    (h : (addressedToken accept addr ep s).route = .rSetup) : (addressedToken accept addr ep s).setupIdx = 0 := by
  rcases addressedToken_cases accept addr ep s with ⟨-, e⟩ | ⟨-, -, e⟩ | ⟨-, -, e⟩ <;> rw [e] at h ⊢
  · simp [tokenIgnored_eq] at h
  · simp at h
  · exact haccept _ (tokenPrelude_route s) h

theorem PhaseInv.addressedToken (accept : EpNum → State → State) (addr : DevAddr) (ep : EpNum) (s : State)
    (haccept : ∀ u, u.route = .rWait → (accept ep u).route = .rSetup → (accept ep u).setupIdx = 0) :
    PhaseInv (Machine.afterToken (Machine.addressedToken accept addr ep s)) (Machine.addressedToken accept addr ep s) :=
  PhaseInv.afterToken (addressedToken_setupIdx haccept)

theorem PhaseInv.tokenData (d : Dir) (addr : DevAddr) (ep : EpNum) (s : State) :
    PhaseInv (Machine.afterToken (Machine.addressedToken (Machine.tokenData d) addr ep s))
      (Machine.addressedToken (Machine.tokenData d) addr ep s) :=
  PhaseInv.addressedToken _ _ _ _ fun u hr h =>
    absurd h (routeData_route_ne (s := { u with curEp := ep }) hr d).1

theorem setupReceive_setupIdx {s : State} (b : Byte) (h : s.setupIdx.val < setupPacketBytes) :
    (setupReceive s b).setupIdx.val = s.setupIdx.val + 1 := by
  unfold setupReceive
  split
  · rfl
  · next hn => exact absurd h hn

/-- A byte received is counted by the core and, in a SETUP, by the engine (T3, 42 R192). -/
theorem PhaseInv.rxb {p : CorePhase} {s : State} (h : PhaseInv p s) (b : Byte) (ha : coreAllows p s (.rxb b) = true) :
    PhaseInv (coreAdvance p (.rxb b) (rxByteEvent b s)) (rxByteEvent b s) := by
  cases p <;> simp only [coreAllows, Bool.false_eq_true] at ha
  case receiving n =>
    obtain ⟨hrec, hidx⟩ := h
    rcases (receives_iff _).1 hrec with hr | hr | hr <;> simp only [coreAdvance, rxByteEvent, hr, PhaseInv]
    · have hn : n < setupPacketBytes := by simpa [hr] using ha
      have hidx := (hidx hr).2
      have hrecv := setupReceive_setupIdx (s := s) b (hidx ▸ hn)
      obtain ⟨_, _, _, _, he⟩ := setupReceive_frame s b
      rw [he] at hrecv ⊢
      exact ⟨hrec, fun _ => ⟨hn, hidx ▸ hrecv⟩⟩
    · obtain ⟨_, _, _, he⟩ := outReceive_frame s b
      rw [he]
      exact ⟨hrec, fun h => by simp [hr] at h⟩
    · exact ⟨rfl, nofun⟩
  case bridged => rcases h with hr | hr <;> simp [coreAdvance, Machine.keepWatch, rxByteEvent, hr, PhaseInv]

/-- A byte sent leaves the core with what is offered after it (T2, 43 R212). -/
theorem PhaseInv.txpop {p : CorePhase} {s : State} (h : PhaseInv p s) (ha : coreAllows p s .txpop = true) :
    PhaseInv (coreAdvance p .txpop (txPopEvent s)) (txPopEvent s) := by
  cases p <;> simp only [coreAllows, Bool.false_eq_true] at ha
  case sending offered emptied =>
    obtain ⟨_, -, he⟩ := inAdvance_frame s
    have hr : (txPopEvent s).route = s.route := by
      rcases h.1 with hr | hr <;> simp only [txPopEvent, hr] <;> rw [he] <;> exact hr
    exact ⟨hr ▸ h.1, id, fun hn => by simp [hn]⟩
  case bridged => rcases h with hr | hr <;> simp [coreAdvance, txPopEvent, hr, PhaseInv]

/-- DBG closes the debug route at most, and the bridge keeps its transaction to its END (T9, 41 R172). -/
theorem PhaseInv.dbg {p : CorePhase} {s : State} (h : PhaseInv p s) (a : Bool) :
    PhaseInv (Machine.keepWatch p (debugEvent a s)) (debugEvent a s) := by
  unfold debugEvent
  split
  · split
    · next hr =>
      obtain rfl := h.bridged_of_debug hr.2
      exact .inr rfl
    · exact h.keepWatch rfl rfl rfl
  · exact h.keepWatch rfl rfl rfl

/-- Every protocol event a core may give leaves the engine's route where the core stands (60 R330). -/
theorem PhaseInv.exec_protocol {p : CorePhase} {s t : State} {i : Instr} (h : PhaseInv p s) (hroute : RouteInv s)
    (hi : i.agent = .protocol) (ha : coreAllows p s i = true) (hx : exec i s = .next t) :
    PhaseInv (coreAdvance p i t) t := by
  rw [exec_protocol_next hi hx]
  have hf := h.protocolFrame hroute
  cases i <;> simp only [Instr.agent, reduceCtorEq] at hi
  case nop i => exact hf.nop i
  case start => rfl
  case tokenOut addr ep => exact PhaseInv.tokenData .dirOut addr ep _
  case tokenIn addr ep => exact PhaseInv.tokenData .dirIn addr ep _
  case tokenSetup addr ep => exact PhaseInv.addressedToken Machine.tokenSetup addr ep _ fun _ _ _ => rfl
  case rxb b => exact hf.rxb b (by simpa only [coreAllows, protocolFrame_route] using ha)
  case txpop => exact hf.txpop ha
  case dend => exact hf.afterDend (by simpa only [coreAllows, protocolFrame_route] using ha)
  case txnEnd | err | brst => rfl
  case dbg a => exact hf.dbg a
  case reservedKindAB | reservedKindCF => simp [coreAllows] at ha
  case tokenSof addr ep =>
    exact PhaseInv.afterToken (t := Machine.tokenSof (Machine.protocolFrame s))
      (by simp [Machine.tokenSof, tokenIgnored_eq])
  all_goals exact PhaseInv.afterToken (t := tokenInvalid (Machine.protocolFrame s)) nofun

/-- An access of the CPU is no move of the core: it watches what is offered. -/
theorem coreAdvance_control {i : Instr} (hi : i.agent = .control) (p : CorePhase) (t : State) :
    coreAdvance p i t = keepWatch p t := by
  cases i <;> simp only [Instr.agent, reduceCtorEq] at hi <;> rfl

theorem PhaseInv.exec_control {p : CorePhase} {s t : State} {i : Instr} (h : PhaseInv p s) (hi : i.agent = .control)
    (hx : exec i s = .next t) : PhaseInv (coreAdvance p i t) t := by
  rw [coreAdvance_control hi]
  obtain ⟨_, _, _, _, _, _, _, _, _, _, _, _, rfl⟩ := exec_control_next hi hx
  exact h.keepWatch rfl rfl rfl

/-! ### The reads of the global registers -/

theorem zext32_eq_ofNat {n : Nat} (v : BitVec n) : zext32 v = BitVec.ofNat 32 v.toNat :=
  (BitVec.ofNat_toNat 32 v).symm

theorem cpuRead_zext32 {n : Nat} (v : BitVec n) (s : State) :
    cpuRead (zext32 v) s = .next { s with readData := some (BitVec.ofNat 32 v.toNat) } := by
  rw [zext32_eq_ofNat, cpuRead_eq]

/-- A counter register is a whole word: nothing is extended. -/
theorem cpuRead_word (v : Word) (s : State) :
    cpuRead v s = .next { s with readData := some (BitVec.ofNat 32 v.toNat) } := by
  rw [BitVec.ofNat_toNat, BitVec.setWidth_eq, cpuRead_eq]

/-! ### SETUP_DATA and SETUP_ADVANCE -/

theorem setupHead_of_have {s : State} (h : setupHave s = true) (k : Fin 10) (hk : k.val = s.setupRd.val) :
    setupHead s = some s.setupBuf[k] := by
  rw [setupHead, dif_pos ((setupHave_iff s).1 h)]
  simp [← hk]

theorem setupHead_of_not_have {s : State} (h : setupHave s = false) : setupHead s = none := by
  rw [setupHead, dif_neg ((setupHave_iff s).not.1 (by simp [h]))]

theorem setupAdvance_of_have {s : State} (h : setupHave s = true) (next : Fin 11)
    (hnext : next.val = s.setupRd.val + 1) : setupAdvance s = { s with setupRd := next } := by
  have he : next = ⟨s.setupRd.val + 1, hnext ▸ next.isLt⟩ := Fin.ext hnext
  rw [setupAdvance, dif_pos ((setupHave_iff s).1 h), he]

theorem setupAdvance_of_not_have {s : State} (h : setupHave s = false) : setupAdvance s = s := by
  rw [setupAdvance, dif_neg ((setupHave_iff s).not.1 (by simp [h]))]

/-! ### The status words as sums of their fields -/

theorem toNat_append_eq_add {m n : Nat} (x : BitVec m) (y : BitVec n) :
    (x ++ y).toNat = 2 ^ n * x.toNat + y.toNat := by
  rw [BitVec.toNat_append, ← Nat.shiftLeft_add_eq_or_of_lt y.isLt, Nat.shiftLeft_eq, Nat.mul_comm]

theorem toNat_zext32 {n : Nat} (v : BitVec n) (h : n ≤ 32) : (zext32 v).toNat = v.toNat :=
  BitVec.toNat_setWidth_of_le h

theorem setupStatusWord_toNat (s : State) : (setupStatusWord s).toNat =
    (setupHave s).toNat + 16 * s.setupEp.toNat + 256 * (s.evPend.getLsbD 0).toNat := by
  rw [setupStatusWord, toNat_zext32 _ (by decide)]
  simp only [toNat_append_eq_add, BitVec.toNat_ofBool, BitVec.toNat_ofNat]
  omega

theorem inStatusWord_toNat (s : State) : (inStatusWord s).toNat =
    (inHave s).toNat + 2 * (inIdle s).toNat + 256 * (s.evPend.getLsbD 1).toNat := by
  rw [inStatusWord, toNat_zext32 _ (by decide)]
  simp only [toNat_append_eq_add, BitVec.toNat_ofBool, BitVec.toNat_ofNat]
  omega

theorem outStatusWord_toNat (s : State) : (outStatusWord s).toNat =
    (outHave s).toNat + 2 * s.outIdle.toNat + 16 * s.outEp.toNat + 256 * (s.evPend.getLsbD 2).toNat := by
  rw [outStatusWord, toNat_zext32 _ (by decide)]
  simp only [toNat_append_eq_add, BitVec.toNat_ofBool, BitVec.toNat_ofNat]
  omega

theorem inHave_eq (s : State) : inHave s = decide (s.inQ ≠ []) := by
  simp [inHave, List.length_pos_iff]

theorem outHave_eq (s : State) : outHave s = decide (s.outQ ≠ []) := by
  simp [outHave, List.length_pos_iff]

/-! ### The outputs in each route (40 R140) -/

theorem shouldStall_dirIn_iff (s : State) (e : EpNum) :
    shouldStall s e .dirIn = true ↔ ¬s.enIn.getLsbD e.toNat = true := by
  simp [shouldStall, enabled, epBit]

theorem shouldStall_dirOut_iff (s : State) (e : EpNum) :
    shouldStall s e .dirOut = true ↔ ¬s.enOut.getLsbD e.toNat = true := by
  simp [shouldStall, enabled, epBit]

/-- The routes in which the core reads nothing drive nothing. -/
theorem signals_of_none_or_wait {s : State} (h : s.route = .rNone ∨ s.route = .rWait) :
    armSignal s = false ∧ stallSignal s = false ∧ dtbSignal s = false ∧ txHaveSignal s = false ∧
      handshake s = none := by
  rcases h with h | h <;> simp [armSignal, stallSignal, dtbSignal, txHaveSignal, handshake, h]

/-- A SETUP and the status OUT are acknowledged whatever the rest of the state. -/
theorem signals_of_setup_or_statusOut {s : State} (h : s.route = .rSetup ∨ s.route = .rStatusOut) :
    armSignal s = true ∧ stallSignal s = false ∧ dtbSignal s = false ∧ txHaveSignal s = false ∧
      handshake s = some .ack := by
  refine ⟨?_, ?_, ?_, ?_, handshake_ack_of_always h⟩ <;>
    rcases h with h | h <;> simp [armSignal, stallSignal, dtbSignal, txHaveSignal, h]

theorem stallSignal_rIn_iff {s : State} (h : s.route = .rIn) :
    stallSignal s = true ↔ ¬s.enIn.getLsbD s.curEp.toNat = true := by
  rw [← shouldStall_dirIn_iff, stallSignal, h]

theorem armSignal_rIn_iff {s : State} (h : s.route = .rIn) :
    armSignal s = true ↔ s.enIn.getLsbD s.curEp.toNat = true ∧ s.inQueued = true ∧ s.inEp = s.curEp := by
  have ha : armSignal s = (!stallSignal s && inResp s s.curEp) := by rw [armSignal, h]
  rw [ha, Bool.and_eq_true, Bool.not_eq_true', ← Bool.not_eq_true, stallSignal_rIn_iff h, inResp_iff, not_not]

theorem txHaveSignal_rIn_iff {s : State} (h : s.route = .rIn) :
    txHaveSignal s = true ↔
      s.enIn.getLsbD s.curEp.toNat = true ∧ (s.inQueued = true ∧ s.inEp = s.curEp) ∧ s.inQ ≠ [] := by
  have ht : txHaveSignal s = (armSignal s && inHave s) := by rw [txHaveSignal, h]
  rw [ht, Bool.and_eq_true, armSignal_rIn_iff h, inHave_eq, decide_eq_true_iff, and_assoc]

theorem dtbSignal_in {s : State} (h : s.route = .rIn ∨ s.route = .rStatusIn) :
    dtbSignal s = s.dtb.getLsbD s.curEp.toNat := by
  rcases h with h | h <;> simp [dtbSignal, h, epBit]

theorem handshake_rIn {s : State} (h : s.route = .rIn) :
    handshake s = some (if stallSignal s then .stall
      else if armSignal s then (if s.dtb.getLsbD s.curEp.toNat then .data1 else .data0) else .nak) := by
  rw [handshake, h, ← dtbSignal_in (.inl h)]

theorem signals_of_statusIn {s : State} (h : s.route = .rStatusIn) : armSignal s = true ∧ stallSignal s = false ∧
    (txHaveSignal s = true ↔ s.inQueued = true ∧ s.inEp = 0 ∧ s.inQ ≠ []) := by
  have ht : txHaveSignal s = (inResp s 0 && inHave s) := by rw [txHaveSignal, h]
  refine ⟨by simp [armSignal, h], by simp [stallSignal, h], ?_⟩
  rw [ht, Bool.and_eq_true, inResp_iff, inHave_eq, decide_eq_true_iff, and_assoc]

theorem stallSignal_rOut_iff {s : State} (h : s.route = .rOut) :
    stallSignal s = true ↔ ¬s.enOut.getLsbD s.curEp.toNat = true := by
  rw [← shouldStall_dirOut_iff, stallSignal, h]

theorem armSignal_rOut_iff {s : State} (h : s.route = .rOut) :
    armSignal s = true ↔ s.enOut.getLsbD s.curEp.toNat = true ∧ s.outEn = true ∧ ¬(s.outQ = [] ∧ s.outRx = []) ∧
      s.outOvf = false := by
  have ha : armSignal s = (!stallSignal s && outResp s) := by rw [armSignal, h]
  have hlen : 0 < s.outQ.length + s.outRx.length ↔ ¬(s.outQ = [] ∧ s.outRx = []) := by
    rw [← List.length_eq_zero_iff, ← List.length_eq_zero_iff]
    omega
  rw [ha, Bool.and_eq_true, Bool.not_eq_true', ← Bool.not_eq_true, stallSignal_rOut_iff h, outResp_iff, not_not, hlen]

theorem handshake_rOut {s : State} (h : s.route = .rOut) :
    handshake s = some (if stallSignal s then .stall else if armSignal s then .ack else .nak) := by
  rw [handshake, h]

theorem txByteSignal_of_not_debug {s : State} (h : s.route ≠ .rDebug) :
    txByteSignal s = if txHaveSignal s then s.inQ.headD 0 else 0 := by
  rw [txByteSignal, if_neg h]

/-- Outside the bridge's route a stalled packet is not armed (40 R135, R140). -/
theorem armSignal_of_stall {s : State} (h : s.route ≠ .rDebug) (hs : stallSignal s = true) : armSignal s = false := by
  cases hr : s.route <;> simp_all [armSignal, stallSignal]

theorem rxSinkSignal_iff (s : State) :
    rxSinkSignal s = true ↔ s.route = .rSetup ∨ s.route = .rOut ∨ s.route = .rStatusOut := by
  cases hr : s.route <;> simp [rxSinkSignal, hr]

/-- Two vectors have a bit in common exactly if their conjunction is not 0. -/
theorem and_ne_zero_iff {w : Nat} (u v : BitVec w) :
    u &&& v ≠ 0#w ↔ ∃ k, k < w ∧ u.getLsbD k = true ∧ v.getLsbD k = true := by
  constructor
  · intro h
    by_contra! hne
    exact h (BitVec.eq_of_getLsbD_eq fun k hk => by simpa using hne k hk)
  · rintro ⟨k, -, hu, hv⟩ h
    have hk : (u &&& v).getLsbD k = false := by simp [h]
    simp [hu, hv] at hk

theorem irq_iff (s : State) :
    irq s = true ↔ ∃ k, k < 3 ∧ s.evPend.getLsbD k = true ∧ s.evEn.getLsbD k = true := by
  rw [irq, bne_iff_ne]
  exact and_ne_zero_iff s.evPend s.evEn

/-! ### The OUT enable -/

/-- EndTxn clears the OUT enable if it commits an OUT packet, and never sets it (44 R242). -/
theorem endTxn_outEn (s : State) (c : Bool) :
    (endTxn s c).outEn = if c = true ∧ s.route = .rOut then false else s.outEn := by
  cases hr : s.route
  case rOut => cases c <;> simp [endTxn_rOut _ hr, outEnd_commit, outEnd_uncommitted]
  case rSetup => cases c <;> simp [endTxn_rSetup_commit, endTxn_rSetup_uncommitted, hr]
  case rNone => simp [endTxn_rNone c hr]
  case rWait => simp [endTxn_rWait c hr]
  case rIn => simp [endTxn_rIn c hr, inEnd_eq]
  case rStatusIn => simp [endTxn_rStatusIn c hr, inEnd_eq]
  case rStatusOut => simp [endTxn_rStatusOut c hr]
  case rDebug => simp [endTxn_rDebug c hr]

/-- No protocol event sets the OUT enable. -/
theorem exec_protocol_outEn {i : Instr} {s t : State} (hi : i.agent = .protocol) (hx : exec i s = .next t)
    (h : s.outEn = false) : t.outEn = false := by
  rw [exec_protocol_next hi hx]
  by_cases hc : i = .txnEnd true
  · rw [hc]
    exact (endTxn_outEn _ true).trans (by rw [protocolFrame_outEn, h, ite_self])
  · rw [(eventOf_frame _ hi hc).1.outEn, protocolFrame_outEn, h]

/-- Of the CPU's accesses a write of OUT_CTRL alone writes the OUT enable (44 R251). -/
theorem exec_control_outEn {i : Instr} {s t : State} (hi : i.agent = .control) (hx : exec i s = .next t)
    (hne : ∀ d, i ≠ .wrOutCtrl d) : t.outEn = s.outEn := by
  rcases exec_control_cases hi hx with ⟨d, he, -⟩ | ⟨d, -, rfl⟩ | ⟨d, -, rfl⟩ | ⟨d, -, rfl⟩ | ⟨-, _, _, _, _, _, _, rfl⟩
  · exact absurd he (hne d)
  · obtain ⟨_, he⟩ := inPush_frame s (fieldByte d)
    rw [he]
  · split
    · exact inFlush_outEn s
    · obtain ⟨_, _, he⟩ := inArm_frame s (fieldEpno d)
      rw [he]
  · obtain ⟨_, he⟩ := setupAdvance_frame s
    rw [he]
  · rfl

/-- From 0 the OUT enable is set by a write of OUT_CTRL with ENABLE = 1 and by nothing else (44 R244). -/
theorem exec_sets_outEn_iff {i : Instr} {s t : State} (hx : exec i s = .next t) (h : s.outEn = false) :
    t.outEn = true ↔ ∃ d, i = .wrOutCtrl d ∧ d.getLsbD 1 = true := by
  by_cases hw : ∃ d, i = .wrOutCtrl d
  · obtain ⟨d, rfl⟩ := hw
    cases hx
    simp [outControl, fieldEnable]
  · have ht : t.outEn = false := by
      cases hi : i.agent
      · exact exec_protocol_outEn hi hx h
      · rw [exec_control_outEn hi hx fun d he => hw ⟨d, he⟩, h]
    simp only [ht, Bool.false_eq_true, false_iff]
    exact fun ⟨d, he, _⟩ => hw ⟨d, he⟩

end Sys2Proof.Machine

open Sys2Proof Sys2Proof.Machine

/-- Settles O13: waiting changes nothing, and the instruction of a pending word keeps the invariant. -/
theorem stepKeepsInv : Obligations.StepKeepsInv := by
  intro s t h hx
  cases hs : s.inputs with
  | nil =>
    rw [step_of_inputs_nil hs] at hx
    cases hx
    exact h
  | cons w rest =>
    rw [step_of_inputs_cons hs] at hx
    exact (h.consume rest).exec hx

/-- Settles O59: the engine's invariant is kept by every instruction; the phase's by every protocol event the core may
give and by every CPU access. -/
theorem contractKeepsPhaseInv : Obligations.ContractKeepsPhaseInv := by
  intro p s i t hinv hphase ha hx
  refine ⟨hinv.exec hx, ?_⟩
  cases hi : i.agent
  case protocol => exact hphase.exec_protocol hinv.1 hi ha hx
  case control => exact hphase.exec_control hi hx

/-- Settles O42: HAVE says whether there is a byte at the read pointer, which the read shows and the pop passes. -/
theorem setupDataAndAdvanceResults : Obligations.SetupDataAndAdvanceResults := by
  refine fun s => ⟨fun h k next hk hnext => ⟨?_, fun d => ?_⟩, fun h => ⟨?_, fun d => ?_⟩, setupHave_iff s⟩
  · rw [exec, execRdSetupData, setupHead_of_have h k hk]; rfl
  · rw [exec, execWrSetupAdvance, cpuWrite_eq, setupAdvance_of_have h next (hk ▸ hnext)]
  · rw [exec, execRdSetupData, setupHead_of_not_have h]; rfl
  · rw [exec, execWrSetupAdvance, cpuWrite_eq, setupAdvance_of_not_have h]

/-- Settles O43: each status word is the sum of its fields at their places. -/
theorem statusRegisterBits : Obligations.StatusRegisterBits := fun s =>
  ⟨setupStatusWord s, inStatusWord s, outStatusWord s, rfl, rfl, rfl, setupStatusWord_toNat s,
    inHave_eq s ▸ inStatusWord_toNat s, outHave_eq s ▸ outStatusWord_toNat s⟩

/-- Settles O50: the outputs of each route, clause by clause. -/
theorem outputsByRoute : Obligations.OutputsByRoute := by
  intro s
  refine ⟨signals_of_none_or_wait, signals_of_setup_or_statusOut, fun h => ?rIn, fun h => ?rStatusIn, dtbSignal_in,
    fun h => ?rOut, fun h => ?rDebug, fun h => ?notDebug, rxSinkSignal_iff s, rfl, rfl, irq_iff s⟩
  case rIn =>
    refine ⟨stallSignal_rIn_iff h, armSignal_rIn_iff h, txHaveSignal_rIn_iff h, fun he ha => ?_, fun he ha => ?_,
      fun he => ?_⟩ <;> rw [handshake_rIn h]
    · simp [(stallSignal_rIn_iff h).not.2 (not_not.2 he), (armSignal_rIn_iff h).2 ⟨he, ha⟩]
    · simp [(stallSignal_rIn_iff h).not.2 (not_not.2 he), (armSignal_rIn_iff h).not.2 fun hc => ha hc.2]
    · simp [(stallSignal_rIn_iff h).2 he]
  case rStatusIn =>
    obtain ⟨ha, hs, ht⟩ := signals_of_statusIn h
    exact ⟨ha, hs, ht, handshake_rStatusIn h⟩
  case rOut =>
    exact ⟨stallSignal_rOut_iff h, armSignal_rOut_iff h, by simp [outputs, dtbSignal, h],
      by simp [outputs, txHaveSignal, h], handshake_rOut h⟩
  case rDebug =>
    simp [outputs, armSignal, stallSignal, dtbSignal, txHaveSignal, txByteSignal, handshake, h]
  case notDebug =>
    refine ⟨armSignal_of_stall h, fun ht => ?_, fun b rest hq ht => ?_⟩
    · exact (txByteSignal_of_not_debug h).trans (by simp [show txHaveSignal s = false from ht])
    · exact (txByteSignal_of_not_debug h).trans (by simp [show txHaveSignal s = true from ht, hq])

/-- Settles O51: the answer in R_OUT follows from the two signals there, and the enable is the CPU's to set. -/
theorem outRearm : Obligations.OutRearm := by
  refine ⟨fun s h => ⟨_, rfl, ?_⟩, fun i s t hx h => exec_sets_outEn_iff hx h, fun s h he => ?_, fun s h he => ?_,
    fun s h => handshake_ack_of_always (.inr h)⟩
  · rw [endTxn_outEn, protocolFrame_route, if_pos ⟨rfl, h⟩]
  · rw [handshake_rOut h, if_pos ((stallSignal_rOut_iff h).2 (by simp [he]))]
  · have hs := (stallSignal_rOut_iff h).not.2 (not_not.2 he)
    have ha := armSignal_rOut_iff h
    rw [handshake_rOut h, if_neg hs]
    refine ⟨fun hen => ?_, fun hen hq hovf => ?_, fun hq hrx => ?_, fun hovf => ?_⟩
    · rw [if_neg (by simp [ha, hen])]
    · rw [if_pos (ha.2 ⟨he, hen, not_and_or.2 hq, hovf⟩)]
    · rw [if_neg (by simp [ha, hq, hrx])]
    · rw [if_neg (by simp [ha, hovf])]

/-- Settles O58: the frame lowers the output, and of the events ERR alone raises it again. -/
theorem resetPulseIsOneStepPerError : Obligations.ResetPulseIsOneStepPerError := by
  intro i s t hi h
  rw [show (outputs t).reset = t.rstPulse from rfl, exec_protocol_rstPulse hi h, decide_eq_true_iff]

/-- Settles O12: at reset the queues are empty, the counters 0, the stage IDLE and no transaction open. -/
theorem invAtReset : Obligations.InvAtReset := by
  have hquiet : Quiet State.reset :=
    ⟨⟨Nat.zero_le _, Nat.zero_le _⟩, ⟨rfl, rfl, rfl⟩, Nat.le_refl 0, ⟨Nat.zero_le _, Nat.zero_le _, Nat.zero_le _⟩,
      fun _ => rfl⟩
  exact ⟨(engineInv_iff _).2 ⟨hquiet.closed rfl rfl, nofun⟩, rfl⟩

/-- Settles O37: each register returns its field as a number, and the stage register the code of the stage. -/
theorem globalRegisterReadResults : Obligations.GlobalRegisterReadResults := by
  refine fun s => ⟨cpuRead_zext32 _ s, cpuRead_zext32 _ s, cpuRead_zext32 _ s, cpuRead_word _ s, cpuRead_word _ s,
    cpuRead_word _ s, cpuRead_zext32 _ s, cpuRead_zext32 _ s, fun p hp hg => ?_⟩
  have hcode : s.stage.code.toNat = p.2 := by
    rw [hg]
    clear hg
    revert p
    decide
  rw [← hcode]
  exact cpuRead_zext32 _ s
end

