-- ==== Sys2Proof/Proofs/Memory.lean ====
section
/-! PROOFS. The register space of 20_memory.md: which bits of an access word count (20 R75), that reads change nothing
(20 R77), and which agent changes which field (20 R82). -/

namespace Sys2Proof

/-! ### Access words -/

/-- An access word decodes by W, `OFF[7:2]` and D alone. -/
theorem decode_caw_append (w : BitVec 1) (reg : BitVec 6) (lo : BitVec 2) (d : Word) :
    decode (.caw (w ++ reg ++ lo ++ d)) = if w.getLsbD 0 then decodeWr reg d else decodeRd reg := by
  simp only [decode, decodeCaw, cawWrite_append, cawReg_append, cawData_append]

end Sys2Proof

namespace Sys2Proof.Machine

/-- The instruction answers data, and a next state that differs in the read port alone (20 R77). -/
def OnlyReads (i : Instr) : Prop := ∀ s, ∃ d, exec i s = .next { s with readData := some d }

theorem OnlyReads.ite {c : Prop} [Decidable c] {i j : Instr} (hi : OnlyReads i) (hj : OnlyReads j) :
    OnlyReads (if c then i else j) := by
  split
  · exact hi
  · exact hj

/-- Every register's read only reads: the 21 comparisons of the read decoder, and the last block of unmapped offsets. -/
theorem onlyReads_decodeRd (reg : BitVec 6) : OnlyReads (decodeRd reg) := by
  unfold decodeRd
  iterate 21 refine .ite (fun _ => ⟨_, rfl⟩) ?_
  exact fun _ => ⟨_, rfl⟩

/-! ### The two copies of the address under a protocol event -/

/-- The address register and the latched address (10 R26). -/
def addresses (s : State) : DevAddr × DevAddr := (s.addrReg, s.addrEff)

theorem endTxn_addresses (s : State) (c : Bool) : addresses (endTxn s c) = addresses s := by
  obtain ⟨_, _, _, _, _, _, _, _, _, _, _, _, _, _, h⟩ := endTxn_frame s c
  rw [h]
  rfl

theorem tokenPrelude_addresses (s : State) : addresses (tokenPrelude s) = addresses s := by
  obtain ⟨_, _, _, _, h⟩ := tokenPrelude_frame s
  rw [h]
  rfl

theorem tokenIgnored_addresses (s : State) : addresses (tokenIgnored s) = addresses s := by
  rw [tokenIgnored_eq]
  rfl

/-- A token keeps both addresses, whichever way it goes, if its own routing keeps them. -/
theorem addressedToken_addresses (accept : EpNum → State → State) (addr : DevAddr) (ep : EpNum) (s : State)
    (h : ∀ u, addresses (accept ep u) = addresses u) : addresses (addressedToken accept addr ep s) = addresses s := by
  rw [← tokenPrelude_addresses s]
  rcases addressedToken_cases accept addr ep s with ⟨-, e⟩ | ⟨-, -, e⟩ | ⟨-, -, e⟩ <;> rw [e]
  · exact tokenIgnored_addresses _
  · rfl
  · exact h _

theorem tokenData_addresses (d : Dir) (ep : EpNum) (s : State) : addresses (tokenData d ep s) = addresses s := by
  obtain ⟨_, _, h⟩ := routeData_frame { s with curEp := ep } d
  rw [tokenData, h]
  rfl

theorem nopEvent_addresses (i : Bool) (s : State) : addresses (nopEvent i s) = addresses s := by
  unfold nopEvent
  split
  · cases i
    · rfl
    · exact tokenIgnored_addresses s
  · rfl

theorem rxByteEvent_addresses (b : Byte) (s : State) : addresses (rxByteEvent b s) = addresses s := by
  unfold rxByteEvent
  split
  · obtain ⟨_, _, _, _, h⟩ := setupReceive_frame s b
    rw [h]
    rfl
  · obtain ⟨_, _, _, h⟩ := outReceive_frame s b
    rw [h]
    rfl
  all_goals rfl

theorem txPopEvent_addresses (s : State) : addresses (txPopEvent s) = addresses s := by
  obtain ⟨_, -, h⟩ := inAdvance_frame s
  unfold txPopEvent
  split
  iterate 2
    rw [h]
    rfl
  all_goals rfl

theorem debugEvent_addresses (a : Bool) (s : State) : addresses (debugEvent a s) = addresses s := by
  unfold debugEvent
  split
  · split <;> rfl
  · rfl

/-- Of the protocol events BRST alone writes an address (60 R301); the latching is the frame's (40 R120). -/
theorem eventOf_addresses {i : Instr} (s : State) (hi : i.agent = .protocol) (hne : i ≠ .brst) :
    addresses (eventOf i s) = addresses s := by
  cases i <;> simp only [Instr.agent, reduceCtorEq] at hi
  case nop i => exact nopEvent_addresses i s
  case start =>
    rw [eventOf, startTxn_eq]
    exact endTxn_addresses s false
  case tokenOut addr ep => exact addressedToken_addresses _ _ _ _ (tokenData_addresses _ _)
  case tokenIn addr ep => exact addressedToken_addresses _ _ _ _ (tokenData_addresses _ _)
  case tokenSetup addr ep => exact addressedToken_addresses _ _ _ _ fun _ => rfl
  case tokenSof addr ep => exact (tokenIgnored_addresses _).trans (tokenPrelude_addresses s)
  case rxb b => exact rxByteEvent_addresses b s
  case txpop => exact txPopEvent_addresses s
  case txnEnd c => exact endTxn_addresses s c
  case err => exact endTxn_addresses _ false
  case brst => exact absurd rfl hne
  case dbg a => exact debugEvent_addresses a s
  case dend | reservedKindAB | reservedKindCF => rfl
  all_goals exact tokenPrelude_addresses s

/-- A protocol step leaves the address register, or clears it at a bus reset (60 R301). -/
theorem exec_protocol_addrReg {i : Instr} {s t : State} (hi : i.agent = .protocol) (h : exec i s = .next t) :
    t.addrReg = s.addrReg ∨ (i = .brst ∧ t.addrReg = 0) := by
  rw [exec_protocol_next hi h]
  by_cases hb : i = .brst
  · right
    rw [hb]
    exact ⟨rfl, rfl⟩
  · left
    rw [← protocolFrame_addrReg s]
    exact congrArg Prod.fst (eventOf_addresses _ hi hb)

/-! ### The fields that both agents change -/

/-- The protocol agent's role on the fields both agents change, beside the OUT enable (20 R82): it appends to the OUT
queue, never arms the In Handler and never clears an event. -/
structure KeepsRole (s t : State) : Prop where
  outQ : s.outQ <+: t.outQ
  inQueued : t.inQueued = true → s.inQueued = true
  evPend : s.evPend &&& t.evPend = s.evPend

theorem KeepsRole.of_eq {s t : State} (hq : t.outQ = s.outQ) (hin : t.inQueued = s.inQueued)
    (hev : t.evPend = s.evPend) : KeepsRole s t :=
  ⟨hq ▸ List.prefix_refl _, fun h => hin ▸ h, by rw [hev, BitVec.and_self]⟩

/-- Raising events clears none. -/
theorem and_or_self_left {w : Nat} (x y : BitVec w) : x &&& (x ||| y) = x := by
  ext i hi
  rw [BitVec.getElem_and, BitVec.getElem_or]
  cases x[i] <;> rfl

theorem inEnd_keepsRole (s : State) (c : Bool) : KeepsRole s (inEnd s c) := by
  unfold inEnd
  split
  · exact ⟨List.prefix_refl _, nofun, and_or_self_left _ _⟩
  · exact .of_eq rfl rfl rfl

theorem outEnd_keepsRole (s : State) (c : Bool) : KeepsRole s (outEnd s c) := by
  cases c
  · exact .of_eq rfl rfl rfl
  · exact ⟨List.prefix_append _ _, id, and_or_self_left _ _⟩

theorem setupEnd_keepsRole (s : State) (c : Bool) : KeepsRole s (setupEnd s c) := by
  cases c
  · exact .of_eq rfl rfl rfl
  · exact ⟨List.prefix_refl _, id, and_or_self_left _ _⟩

/-- EndTxn keeps to the role in every route, whatever it commits (40 R122). -/
theorem endTxn_keepsRole (s : State) (c : Bool) : KeepsRole s (endTxn s c) := by
  cases hr : s.route
  case rNone => rw [endTxn_rNone c hr]; exact .of_eq rfl rfl rfl
  case rWait => rw [endTxn_rWait c hr]; exact .of_eq rfl rfl rfl
  case rSetup =>
    have h := setupEnd_keepsRole s c
    rw [show endTxn s c = { setupEnd s c with route := .rNone } by simp only [endTxn, endRoute, hr]]
    exact ⟨h.outQ, h.inQueued, h.evPend⟩
  case rIn =>
    have h := inEnd_keepsRole s c
    rw [endTxn_rIn c hr]
    exact ⟨h.outQ, h.inQueued, h.evPend⟩
  case rOut =>
    have h := outEnd_keepsRole s c
    rw [endTxn_rOut c hr]
    exact ⟨h.outQ, h.inQueued, h.evPend⟩
  case rStatusIn =>
    have h := inEnd_keepsRole s c
    rw [endTxn_rStatusIn c hr]
    exact ⟨h.outQ, h.inQueued, h.evPend⟩
  case rStatusOut => rw [endTxn_rStatusOut c hr]; exact .of_eq rfl rfl rfl
  case rDebug => rw [endTxn_rDebug c hr]; exact .of_eq rfl rfl rfl

/-- Every protocol event keeps to the role: a committed END by its route, and the others change none of the fields. -/
theorem eventOf_keepsRole {i : Instr} (s : State) (hi : i.agent = .protocol) : KeepsRole s (eventOf i s) := by
  by_cases hc : i = .txnEnd true
  · rw [hc]
    exact endTxn_keepsRole s true
  · obtain ⟨hsame, -⟩ := eventOf_frame s hi hc
    exact .of_eq hsame.outQ hsame.inQueued hsame.evPend

theorem exec_protocol_keepsRole {i : Instr} {s t : State} (hi : i.agent = .protocol) (h : exec i s = .next t) :
    KeepsRole s t := by
  rw [exec_protocol_next hi h]
  obtain ⟨hq, hin, hev⟩ := eventOf_keepsRole (protocolFrame s) hi
  rw [protocolFrame_outQ] at hq
  rw [protocolFrame_inQueued] at hin
  rw [protocolFrame_evPend] at hev
  exact ⟨hq, hin, hev⟩

end Sys2Proof.Machine

open Sys2Proof Sys2Proof.Machine

/-- Settles O5: the decoder reads W, `OFF[7:2]` and, of a write, D, which are also what the encoder writes. -/
theorem cawIgnoresOffsetLowBitsAndReadData : Obligations.CawIgnoresOffsetLowBitsAndReadData := fun reg lo d =>
  ⟨(decode_caw_append 0#1 reg lo d).trans (decode_cawWord false reg 0#32).symm,
    (decode_caw_append 1#1 reg lo d).trans (decode_cawWord true reg d).symm⟩

/-- Settles O41: a word with W = 0 decodes to the read of its register, and each of those fills the read port alone. -/
theorem readsHaveNoSideEffect : Obligations.ReadsHaveNoSideEffect := by
  intro s w hw
  have hread : decode (.caw w) = decodeRd (cawReg w) := if_neg (Bool.eq_false_iff.1 hw)
  rw [hread]
  exact onlyReads_decodeRd (cawReg w) s

/-- Settles O52: a CPU access changes only the control agent's fields, and none of these is among them. -/
theorem cpuStepKeepsProtocolState : Obligations.CpuStepKeepsProtocolState := by
  intro i s t hi h
  obtain ⟨_, _, _, _, _, _, _, _, _, _, _, _, rfl⟩ := exec_control_next hi h
  and_intros <;> rfl

/-- Settles O53: no protocol event touches the CPU's fields, BRST alone writes the address register, and on the shared
fields every event, a committed END included, keeps to the protocol agent's role. -/
theorem protocolStepKeepsCpuState : Obligations.ProtocolStepKeepsCpuState := by
  intro i s t hi h
  have hcpu := exec_protocol_sameCpu hi h
  have hrole := exec_protocol_keepsRole hi h
  have hen : t.outEn = true → s.outEn = true := by
    simpa only [Bool.not_eq_false] using mt (exec_protocol_outEn hi h)
  exact ⟨hcpu.enOut, hcpu.enIn, hcpu.evEn, hcpu.inEp, exec_protocol_addrReg hi h, hcpu.inQ, hrole.outQ,
    hrole.inQueued, hen, hrole.evPend⟩
end

