-- ==== Sys2Proof/Proofs/Encoding.lean ====
section
/-! PROOFS. The encoding of 30_encoding.md: the decoder reads back what the encoder writes and ignores the other bits,
every word stands in exactly one row of the opcode table, and a reserved KIND is refused. -/

namespace Sys2Proof

/-! ### Payloads with bits that are not named (30 R93, R95) -/

theorem pewKind_byte (kind : BitVec 4) (x : BitVec 12) (b : Byte) : pewKind (kind ++ x ++ b) = kind :=
  (congrArg pewKind BitVec.append_assoc).trans (pewKind_append kind (x ++ b))

theorem pewByte_byte (kind : BitVec 4) (x : BitVec 12) (b : Byte) : pewByte (kind ++ x ++ b) = b :=
  BitVec.extractLsb'_append_eq_right

theorem pewKind_bit (kind : BitVec 4) (x : BitVec 19) (b : Bool) : pewKind (kind ++ x ++ BitVec.ofBool b) = kind :=
  (congrArg pewKind BitVec.append_assoc).trans (pewKind_append kind (x ++ BitVec.ofBool b))

theorem pewBit_bit (kind : BitVec 4) (x : BitVec 19) (b : Bool) : pewBit (kind ++ x ++ BitVec.ofBool b) = b := by
  show (kind ++ x ++ BitVec.ofBool b : BitVec (4 + 19 + 1)).getLsbD 0 = b
  rw [BitVec.getLsbD_append, if_pos Nat.one_pos]
  cases b <;> rfl

/-! ### Reserved kinds (30 R97) -/

/-- A reserved kind decodes to one of the two reserved rows, with the kind as operand. -/
theorem decodePew_reserved {w : BitVec 24} (h : 0xA#4 ≤ pewKind w) :
    decodePew w = .reservedKindAB (pewKind w) ∨ decodePew w = .reservedKindCF (pewKind w) := by
  unfold decodePew
  split
  case h_11 hk | h_12 hk => exact .inl (hk ▸ rfl)
  case h_13 => exact .inr rfl
  all_goals next hk => exact absurd (hk ▸ h) (by decide)

/-! ### The encoder's access words (30 R100) -/

theorem decode_readWord (reg : BitVec 6) : decode (readWord reg) = decodeRd reg := decode_cawWord false reg 0#32

theorem decode_writeWord (reg : BitVec 6) (d : Word) : decode (writeWord reg d) = decodeWr reg d :=
  decode_cawWord true reg d

/-! ### The unmapped blocks (45 R286) -/

theorem ne_of_unmapped {reg k : BitVec 6} (h : 0x12#6 ≤ reg) (hk : k < 0x12#6) : reg ≠ k := by
  rintro rfl
  exact BitVec.not_lt.2 h hk

/-- Above the 18 registers the read decoder has only the blocks to tell apart. -/
theorem decodeRd_unmapped {reg : BitVec 6} (h : 0x12#6 ≤ reg) : decodeRd reg =
    if reg &&& 0x3E#6 = 0x12#6 then .rdUnmapped48 reg
    else if reg &&& 0x3C#6 = 0x14#6 then .rdUnmapped50 reg
    else if reg &&& 0x38#6 = 0x18#6 then .rdUnmapped60 reg
    else .rdUnmapped80 reg := by
  unfold decodeRd
  iterate 18 rw [if_neg (ne_of_unmapped h (by decide))]

/-- Above the 18 registers the write decoder has only the blocks to tell apart. -/
theorem decodeWr_unmapped {reg : BitVec 6} (h : 0x12#6 ≤ reg) (d : Word) : decodeWr reg d =
    if reg &&& 0x3E#6 = 0x12#6 then .wrUnmapped48 reg d
    else if reg &&& 0x3C#6 = 0x14#6 then .wrUnmapped50 reg d
    else if reg &&& 0x38#6 = 0x18#6 then .wrUnmapped60 reg d
    else .wrUnmapped80 reg d := by
  unfold decodeWr
  iterate 18 rw [if_neg (ne_of_unmapped h (by decide))]

/-! Each block's indices meet its own test in the decoder, and none of those before it. -/

theorem block_48_bits : ∀ reg, regWithin 0x12#6 0x13#6 reg = true → 0x12#6 ≤ reg ∧ reg &&& 0x3E#6 = 0x12#6 := by decide

theorem block_50_bits : ∀ reg, regWithin 0x14#6 0x17#6 reg = true →
    0x12#6 ≤ reg ∧ reg &&& 0x3E#6 ≠ 0x12#6 ∧ reg &&& 0x3C#6 = 0x14#6 := by decide

theorem block_60_bits : ∀ reg, regWithin 0x18#6 0x1F#6 reg = true →
    0x12#6 ≤ reg ∧ reg &&& 0x3E#6 ≠ 0x12#6 ∧ reg &&& 0x3C#6 ≠ 0x14#6 ∧ reg &&& 0x38#6 = 0x18#6 := by decide

theorem block_80_bits : ∀ reg, regWithin 0x20#6 0x3F#6 reg = true →
    0x12#6 ≤ reg ∧ reg &&& 0x3E#6 ≠ 0x12#6 ∧ reg &&& 0x3C#6 ≠ 0x14#6 ∧ reg &&& 0x38#6 ≠ 0x18#6 := by decide

theorem decode_block_48 {reg : BitVec 6} (h : regWithin 0x12#6 0x13#6 reg = true) :
    decode (readWord reg) = .rdUnmapped48 reg ∧ ∀ d, decode (writeWord reg d) = .wrUnmapped48 reg d := by
  obtain ⟨hge, h48⟩ := block_48_bits reg h
  simp only [decode_readWord, decode_writeWord, decodeRd_unmapped hge, decodeWr_unmapped hge, if_pos h48, true_and,
    implies_true]

theorem decode_block_50 {reg : BitVec 6} (h : regWithin 0x14#6 0x17#6 reg = true) :
    decode (readWord reg) = .rdUnmapped50 reg ∧ ∀ d, decode (writeWord reg d) = .wrUnmapped50 reg d := by
  obtain ⟨hge, h48, h50⟩ := block_50_bits reg h
  simp only [decode_readWord, decode_writeWord, decodeRd_unmapped hge, decodeWr_unmapped hge, if_neg h48, if_pos h50,
    true_and, implies_true]

theorem decode_block_60 {reg : BitVec 6} (h : regWithin 0x18#6 0x1F#6 reg = true) :
    decode (readWord reg) = .rdUnmapped60 reg ∧ ∀ d, decode (writeWord reg d) = .wrUnmapped60 reg d := by
  obtain ⟨hge, h48, h50, h60⟩ := block_60_bits reg h
  simp only [decode_readWord, decode_writeWord, decodeRd_unmapped hge, decodeWr_unmapped hge, if_neg h48, if_neg h50,
    if_pos h60, true_and, implies_true]

theorem decode_block_80 {reg : BitVec 6} (h : regWithin 0x20#6 0x3F#6 reg = true) :
    decode (readWord reg) = .rdUnmapped80 reg ∧ ∀ d, decode (writeWord reg d) = .wrUnmapped80 reg d := by
  obtain ⟨hge, h48, h50, h60⟩ := block_80_bits reg h
  simp only [decode_readWord, decode_writeWord, decodeRd_unmapped hge, decodeWr_unmapped hge, if_neg h48, if_neg h50,
    if_neg h60, true_and, implies_true]

/-! ### The row of a decoded word (30 R103, R104) -/

theorem Instr.row_mem_opcodeRows (i : Instr) : i.row ∈ opcodeRows := by
  cases i <;> exact of_decide_eq_true rfl

/-- The operands in which the two differ decide neither whether they are well formed nor their row. -/
def Instr.SameRow (i j : Instr) : Prop := i.wf = j.wf ∧ i.row = j.row

theorem Instr.SameRow.ite {c : Prop} [Decidable c] {i i' j j' : Instr} (h : i.SameRow j) (h' : i'.SameRow j') :
    (if c then i else i').SameRow (if c then j else j') := by
  split
  · exact h
  · exact h'

/-! ### The row of a protocol event word -/

theorem pew_eq_append (w : BitVec 24) : w = pewKind w ++ (pewPid w ++ w.extractLsb' 0 16 : BitVec 20) := by
  have hlow : (pewPid w ++ w.extractLsb' 0 16 : BitVec 20) = w.extractLsb' 0 20 :=
    BitVec.extractLsb'_append_extractLsb'_eq_extractLsb' rfl
  have hword : (pewKind w ++ w.extractLsb' 0 20 : BitVec 24) = w.extractLsb' 0 24 :=
    BitVec.extractLsb'_append_extractLsb'_eq_extractLsb' rfl
  rw [hlow, hword, BitVec.extractLsb'_eq_self]

/-- A PEW row, from the bits of its mask on KIND and PID. -/
theorem matches_pew {w : BitVec 24} {kind kindMask pid pidMask : BitVec 4} (hkind : pewKind w &&& kindMask = kind)
    (hpid : pewPid w &&& pidMask = pid) :
    (Row.pew (kind ++ (pid ++ 0#16 : BitVec 20)) (kindMask ++ (pidMask ++ 0#16 : BitVec 20))).matchesWord (.pew w)
      = true := by
  have hlow : (pewPid w ++ w.extractLsb' 0 16 : BitVec 20) &&& (pidMask ++ 0#16)
      = ((pewPid w &&& pidMask) ++ (w.extractLsb' 0 16 &&& 0#16) : BitVec 20) := BitVec.and_append
  have hand : w &&& (kindMask ++ (pidMask ++ 0#16 : BitVec 20)) = kind ++ (pid ++ 0#16 : BitVec 20) := by
    conv_lhs => rw [pew_eq_append w]
    rw [pewWord_and, hlow, hkind, hpid, BitVec.and_zero]
  exact beq_iff_eq.2 hand

/-- A PEW row that tests bits of KIND alone. -/
theorem matches_pewKind {w : BitVec 24} {kind mask : BitVec 4} (h : pewKind w &&& mask = kind) :
    (Row.pew (kind ++ 0#20) (mask ++ 0#20)).matchesWord (.pew w) = true :=
  matches_pew (pid := 0#4) (pidMask := 0#4) h BitVec.and_zero

theorem decodeToken_sameRow (pid : BitVec 4) (addr : DevAddr) (ep : EpNum) :
    (decodeToken pid addr ep).SameRow (decodeToken pid 0 0) := by
  unfold decodeToken
  split <;> exact ⟨rfl, rfl⟩

/-- Each of the 16 PIDs has the row with its value. -/
theorem decodeToken_row : ∀ pid, (decodeToken pid 0 0).wf = true ∧
    (decodeToken pid 0 0).row = .pew (0x2#4 ++ (pid ++ 0#16 : BitVec 20)) 0xFF0000#24 := by
  decide

theorem decodeToken_matches {w : BitVec 24} (hk : pewKind w = 0x2#4) (addr : DevAddr) (ep : EpNum) :
    (decodeToken (pewPid w) addr ep).wf = true ∧
      (decodeToken (pewPid w) addr ep).row.matchesWord (.pew w) = true := by
  obtain ⟨hwf, hrow⟩ := decodeToken_sameRow (pewPid w) addr ep
  obtain ⟨hwf0, hrow0⟩ := decodeToken_row (pewPid w)
  rw [hwf, hrow, hrow0]
  exact ⟨hwf0, matches_pew (kindMask := 0xF#4) (pidMask := 0xF#4) (BitVec.and_allOnes.trans hk) BitVec.and_allOnes⟩

/-- By its KIND: a TOKEN's row tests PID too, the two reserved rows test the upper bits of KIND, every other row KIND. -/
theorem decodePew_matches (w : BitVec 24) :
    (decodePew w).wf = true ∧ (decodePew w).row.matchesWord (.pew w) = true := by
  unfold decodePew
  split
  case h_3 hk => exact decodeToken_matches hk _ _
  case h_11 hk | h_12 hk => exact ⟨rfl, matches_pewKind (kind := 0xA#4) (mask := 0xE#4) (by rw [hk]; rfl)⟩
  case h_13 =>
    -- the twelve kinds below 0xC have had their cases
    have hk : 0xC#4 ≤ pewKind w := by
      simp only [imp_false] at *
      bv_omega
    have hand : ∀ kind, 0xC#4 ≤ kind → kind &&& 0xC#4 = 0xC#4 := by decide
    exact ⟨decide_eq_true hk, matches_pewKind (kind := 0xC#4) (mask := 0xC#4) (hand _ hk)⟩
  all_goals next hk => exact ⟨rfl, (matches_pewKind (mask := 0xF#4) (BitVec.and_allOnes.trans hk) :)⟩

/-! ### The row of a CPU access word -/

theorem caw_eq_append (w : BitVec 41) :
    w = BitVec.ofBool (cawWrite w) ++ cawReg w ++ w.extractLsb' 32 2 ++ w.extractLsb' 0 32 := by
  have hwrite : BitVec.ofBool (cawWrite w) = w.extractLsb' 40 1 := BitVec.eq_of_getLsbD_eq (by simp [cawWrite])
  have hreg : (w.extractLsb' 40 1 ++ cawReg w : BitVec 7) = w.extractLsb' 34 7 :=
    BitVec.extractLsb'_append_extractLsb'_eq_extractLsb' rfl
  have hoff : (w.extractLsb' 34 7 ++ w.extractLsb' 32 2 : BitVec 9) = w.extractLsb' 32 9 :=
    BitVec.extractLsb'_append_extractLsb'_eq_extractLsb' rfl
  have hword : (w.extractLsb' 32 9 ++ w.extractLsb' 0 32 : BitVec 41) = w.extractLsb' 0 41 :=
    BitVec.extractLsb'_append_extractLsb'_eq_extractLsb' rfl
  rw [hwrite, hreg, hoff, hword, BitVec.extractLsb'_eq_self]

/-- The row tests bits of W and `OFF[7:2]` alone. -/
def Row.testsReg : Row → Bool
  | .pew _ _ => false
  | .caw _ mask => 0x1FC00000000#41 &&& mask == mask

/-- Such a row cannot tell a word from the encoder's word for the same register. -/
theorem Row.matches_caw {r : Row} (h : r.testsReg = true) (w : BitVec 41) :
    r.matchesWord (.caw w) = r.matchesWord (cawWord (cawWrite w) (cawReg w) 0#32) := by
  cases r with
  | pew => cases h
  | caw value mask =>
    have hmask : 0x1FC00000000#41 &&& mask = mask := beq_iff_eq.1 h
    have hw : w &&& 0x1FC00000000#41
        = (BitVec.ofBool (cawWrite w) ++ cawReg w ++ 0#2 ++ 0#32 : BitVec 41) &&& 0x1FC00000000#41 := by
      conv_lhs => rw [caw_eq_append w]
      exact (cawWord_and _ 1#1 _ 0x3F#6 _ _).trans (cawWord_and _ 1#1 _ 0x3F#6 _ _).symm
    show (w &&& mask == value) = (_ &&& mask == value)
    rw [← hmask, ← BitVec.and_assoc, hw, BitVec.and_assoc]

/-- Each of the 64 register indices, read. -/
theorem decodeRd_matches : ∀ reg, (decodeRd reg).wf = true ∧ (decodeRd reg).row.testsReg = true ∧
    (decodeRd reg).row.matchesWord (readWord reg) = true := by
  decide

theorem decodeWr_sameRow (reg : BitVec 6) (d : Word) : (decodeWr reg d).SameRow (decodeWr reg 0) := by
  unfold decodeWr
  iterate 21 refine .ite ⟨rfl, rfl⟩ ?_
  exact ⟨rfl, rfl⟩

/-- Each of the 64 register indices, written. -/
theorem decodeWr_matches : ∀ reg, (decodeWr reg 0).wf = true ∧ (decodeWr reg 0).row.testsReg = true ∧
    (decodeWr reg 0).row.matchesWord (writeWord reg 0) = true := by
  decide

theorem decodeCaw_matches (w : BitVec 41) :
    (decodeCaw w).wf = true ∧ (decodeCaw w).row.matchesWord (.caw w) = true := by
  unfold decodeCaw
  split
  case isTrue hw =>
    obtain ⟨hwf, hrow⟩ := decodeWr_sameRow (cawReg w) (cawData w)
    obtain ⟨hwf0, htests, hmatch⟩ := decodeWr_matches (cawReg w)
    rw [hwf, hrow, Row.matches_caw htests, hw]
    exact ⟨hwf0, hmatch⟩
  case isFalse hw =>
    obtain ⟨hwf, htests, hmatch⟩ := decodeRd_matches (cawReg w)
    rw [Row.matches_caw htests, Bool.eq_false_iff.2 hw]
    exact ⟨hwf, hmatch⟩

/-! ### The rows do not overlap (30 R103) -/

/-- The two values agree on the bits that both rows test. -/
def Row.overlaps : Row → Row → Bool
  | .pew value mask, .pew value' mask' => value &&& mask' == value' &&& mask
  | .caw value mask, .caw value' mask' => value &&& mask' == value' &&& mask
  | .pew _ _, .caw _ _ => false
  | .caw _ _, .pew _ _ => false

theorem Row.overlaps_self (r : Row) : r.overlaps r = true := by
  cases r <;> exact beq_self_eq_true _

theorem Row.overlaps_comm (r r' : Row) : r.overlaps r' = r'.overlaps r := by
  cases r <;> cases r'
  case pew.pew | caw.caw => exact BEq.comm
  all_goals rfl

theorem and_and_eq_of_matches {n : Nat} {w value mask value' mask' : BitVec n} (h : w &&& mask = value)
    (h' : w &&& mask' = value') : value &&& mask' = value' &&& mask := by
  subst h h'
  ac_rfl

theorem Row.overlaps_of_matches {r r' : Row} {w : InputWord} (h : r.matchesWord w = true)
    (h' : r'.matchesWord w = true) : r.overlaps r' = true := by
  cases r <;> cases r' <;> cases w
  case pew.pew.pew | caw.caw.caw =>
    exact beq_iff_eq.2 (and_and_eq_of_matches (beq_iff_eq.1 h) (beq_iff_eq.1 h'))
  all_goals contradiction

/-- Of each two of the 71 rows, some bit that both test has two values. -/
theorem opcodeRows_pairwise : opcodeRows.Pairwise fun r r' => r.overlaps r' = false := by
  decide

theorem opcodeRows_nodup : opcodeRows.Nodup := by
  refine opcodeRows_pairwise.imp ?_
  rintro r _ h rfl
  exact Bool.false_ne_true (h.symm.trans r.overlaps_self)

theorem eq_of_overlaps {r r' : Row} (hr : r ∈ opcodeRows) (hr' : r' ∈ opcodeRows) (h : r.overlaps r' = true) :
    r = r' := by
  have : Std.Symm fun r r' : Row => r.overlaps r' = false := ⟨fun r r' h => (r'.overlaps_comm r).trans h⟩
  by_contra hne
  exact Bool.false_ne_true ((opcodeRows_pairwise.forall hr hr' hne).symm.trans h)

end Sys2Proof

open Sys2Proof Sys2Proof.Machine

/-- Settles O1: the decoder finds in each encoder word the operands it was made of, and an unmapped register index in
its own block alone. -/
theorem decodeEncodeRoundTrip : Obligations.DecodeEncodeRoundTrip := by
  intro i h
  cases i
  case nop b | txnEnd b | dbg b => cases b <;> rfl
  case tokenInvalidRsv0 | tokenOut | tokenInvalidAck | tokenInvalidData0 | tokenInvalidPing | tokenSof
      | tokenInvalidNyet | tokenInvalidData2 | tokenInvalidSplit | tokenIn | tokenInvalidNak | tokenInvalidData1
      | tokenInvalidPreErr | tokenSetup | tokenInvalidStall | tokenInvalidMdata =>
    exact decode_tokenWord _ _ _
  case rxb b =>
    show decodePew (0x3#4 ++ bytePayload b) = .rxb b
    simp only [decodePew, pewKind_append, pewByte_append]
  case reservedKindAB kind => obtain rfl | rfl := of_decide_eq_true h <;> rfl
  case reservedKindCF kind => revert kind; decide
  case wrAddress | wrEnableOut | wrEnableIn | wrStage | wrErrorCount | wrInvalidStateCount | wrTokenWaitCount
      | wrEvPending | wrEvEnable | wrSetupData | wrSetupAdvance | wrSetupStatus | wrInData | wrInCtrl | wrInStatus
      | wrOutData | wrOutCtrl | wrOutStatus =>
    exact decode_writeWord _ _
  case rdUnmapped48 => exact (decode_block_48 h).1
  case wrUnmapped48 d => exact (decode_block_48 h).2 d
  case rdUnmapped50 => exact (decode_block_50 h).1
  case wrUnmapped50 d => exact (decode_block_50 h).2 d
  case rdUnmapped60 => exact (decode_block_60 h).1
  case wrUnmapped60 d => exact (decode_block_60 h).2 d
  case rdUnmapped80 => exact (decode_block_80 h).1
  case wrUnmapped80 d => exact (decode_block_80 h).2 d
  all_goals rfl

/-- Settles O2: the row of a PEW is that of its KIND and PID, and the row of a CAW that of W and `OFF[7:2]`. -/
theorem decodedInstrMatchesItsRow : Obligations.DecodedInstrMatchesItsRow := by
  intro w
  cases w with
  | pew w =>
    obtain ⟨hwf, hmatch⟩ := decodePew_matches w
    exact ⟨hwf, Instr.row_mem_opcodeRows _, hmatch⟩
  | caw w =>
    obtain ⟨hwf, hmatch⟩ := decodeCaw_matches w
    exact ⟨hwf, Instr.row_mem_opcodeRows _, hmatch⟩

/-- Settles O3: a word matches the row of its instruction, and a second row that it matched would overlap that one. -/
theorem everyWordMatchesExactlyOneRow : Obligations.EveryWordMatchesExactlyOneRow := by
  refine ⟨rfl, rfl, opcodeRows_nodup, fun w => ?_⟩
  obtain ⟨-, hmem, hmatch⟩ := decodedInstrMatchesItsRow w
  exact ⟨_, hmem, hmatch, fun r hr h => eq_of_overlaps hr hmem (Row.overlaps_of_matches h hmatch)⟩

/-- Settles O4: the decoder reads KIND and the fields that KIND names, whatever bits stand beside them. -/
theorem pewIgnoresUnnamedBits : Obligations.PewIgnoresUnnamedBits := by
  refine ⟨fun pid addr ep x y => ?_, fun x b => ?_, fun x b => ?_, fun x => ?_⟩
  · simp only [decode, decodePew, pewKind_token, pewPid_token, pewAddr_token, pewEp_token]
  · simp only [decode, decodePew, pewKind_byte, pewByte_byte]
  · simp only [decode, decodePew, pewKind_bit, pewBit_bit, and_self]
  · simp only [decode, decodePew, pewKind_append, and_self]

/-- Settles O6, by running the decoder on the seven words. -/
theorem specWordsDecode : Obligations.SpecWordsDecode := ⟨rfl, rfl, rfl, rfl, rfl, rfl, rfl⟩

/-- Settles O9: a KIND from 0xA on decodes to a reserved row, and the meaning of both rows is the refusal. -/
theorem reservedKindsAreRefused : Obligations.ReservedKindsAreRefused := by
  refine ⟨fun s kind x h => ?_, fun s k => ⟨rfl, rfl⟩⟩
  have hk : 0xA#4 ≤ pewKind (kind ++ x) := (pewKind_append kind x).symm ▸ h
  show exec (decodePew (kind ++ x)) s = _
  obtain hw | hw := decodePew_reserved hk <;> rw [hw] <;> rfl
end

