-- ==== Sys2Proof/Proofs/TokenRouter.lean ====
section
/-! PROOFS. The token router of 40_token_router.md: what each protocol event of a transaction does, from START and the
token (40 R123 to R130) over the data phase (R131 to R133) to END (R122, R134), and what the outputs owe the host
(R135, R141 to R143). -/

namespace Sys2Proof.Machine

/-! ### The event of each instruction, after the frame (40 R120) -/

theorem exec_nop (i : Bool) (s : State) : exec (.nop i) s = .next (nopEvent i (protocolFrame s)) := rfl

theorem exec_start (s : State) : exec .start s = .next (startTxn (protocolFrame s)) := rfl

theorem exec_tokenSof (addr : DevAddr) (ep : EpNum) (s : State) :
    exec (.tokenSof addr ep) s = .next (tokenSof (protocolFrame s)) := rfl

theorem exec_tokenSetup (addr : DevAddr) (ep : EpNum) (s : State) :
    exec (.tokenSetup addr ep) s = .next (addressedToken tokenSetup addr ep (protocolFrame s)) := rfl

theorem exec_rxb (b : Byte) (s : State) : exec (.rxb b) s = .next (rxByteEvent b (protocolFrame s)) := rfl

theorem exec_txpop (s : State) : exec .txpop s = .next (txPopEvent (protocolFrame s)) := rfl

theorem exec_txnEnd (c : Bool) (s : State) : exec (.txnEnd c) s = .next (endTxn (protocolFrame s) c) := rfl

/-! ### The wait for a token -/

theorem nopEvent_of_not_wait {s : State} (i : Bool) (h : s.route ≠ .rWait) : nopEvent i s = s := if_neg h

/-- A bus that goes idle gives up the wait as an ignored token does. -/
theorem nopEvent_idle {s : State} (h : s.route = .rWait) : nopEvent true s = tokenIgnored s := if_pos h

theorem nopEvent_busy {s : State} (h : s.route = .rWait) :
    nopEvent false s = { s with tokenWaitCount := satInc s.cfg s.tokenWaitCount } := if_pos h

/-- Ignoring a token closes the wait; TOKEN_CHECK returns to IDLE, and the frame's fields stand beside it. -/
theorem tokenIgnored_protocolFrame (s : State) :
    tokenIgnored (protocolFrame s) = { protocolFrame s with
      route := .rNone, stage := if s.stage = .tokenCheck then .idle else s.stage } := by
  rw [tokenIgnored_eq, protocolFrame_stage]

/-! ### Tokens that no START announced (40 R125) -/

/-- What the prelude opens is awaited, so a second prelude does nothing. -/
theorem tokenPrelude_idem (s : State) : tokenPrelude (tokenPrelude s) = tokenPrelude s :=
  tokenPrelude_of_wait (tokenPrelude_route s)

theorem addressedToken_tokenPrelude (accept : EpNum → State → State) (addr : DevAddr) (ep : EpNum) (s : State) :
    addressedToken accept addr ep (tokenPrelude s) = addressedToken accept addr ep s := by
  simp only [addressedToken, tokenPrelude_idem]

theorem tokenSof_tokenPrelude (s : State) : tokenSof (tokenPrelude s) = tokenSof s := by
  rw [tokenSof, tokenPrelude_idem, tokenSof]

theorem tokenPrelude_cfg (s : State) : (tokenPrelude s).cfg = s.cfg := by
  obtain ⟨_, _, _, _, h⟩ := tokenPrelude_frame s
  rw [h]

theorem tokenInvalid_tokenPrelude (s : State) : tokenInvalid (tokenPrelude s) = tokenInvalid s := by
  simp only [tokenInvalid, tokenPrelude_idem, tokenPrelude_cfg]

/-- A token of any PID begins with the prelude. -/
theorem eventOf_decodeToken_tokenPrelude (pid : BitVec 4) (addr : DevAddr) (ep : EpNum) (s : State) :
    eventOf (decodeToken pid addr ep) (tokenPrelude s) = eventOf (decodeToken pid addr ep) s := by
  unfold decodeToken
  split
  case h_2 | h_10 | h_14 => exact addressedToken_tokenPrelude _ addr ep s
  case h_6 => exact tokenSof_tokenPrelude s
  all_goals exact tokenInvalid_tokenPrelude s

theorem exec_decodeToken (pid : BitVec 4) (addr : DevAddr) (ep : EpNum) (s : State) :
    exec (decodeToken pid addr ep) s = .next (eventOf (decodeToken pid addr ep) (protocolFrame s)) := by
  unfold decodeToken
  split <;> rfl

/-- The frame has done its work before START, and START leaves IDLE. -/
theorem protocolFrame_startTxn (s : State) :
    protocolFrame (startTxn (protocolFrame s)) = startTxn (protocolFrame s) :=
  protocolFrame_eq_self (startTxn_stage_ne_idle _) ((startTxn_rstPulse _).trans (protocolFrame_rstPulse s))

/-! ### Tokens that are not acted on (40 R126 to R128) -/

theorem eventOf_decodeToken_invalid {pid : BitVec 4} (addr : DevAddr) (ep : EpNum) (hout : pid ≠ 0x1#4)
    (hin : pid ≠ 0x9#4) (hsof : pid ≠ 0x5#4) (hsetup : pid ≠ 0xD#4) :
    eventOf (decodeToken pid addr ep) = tokenInvalid := by
  unfold decodeToken
  split
  case h_2 => exact absurd rfl hout
  case h_6 => exact absurd rfl hsof
  case h_10 => exact absurd rfl hin
  case h_14 => exact absurd rfl hsetup
  all_goals rfl

theorem tokenInvalid_of_wait {s : State} (h : s.route = .rWait) :
    tokenInvalid s = { s with
      invalidStateCount := satInc s.cfg s.invalidStateCount, route := .rNone, stage := .idle } := by
  rw [tokenInvalid, tokenPrelude_of_wait h]

/-! ### Tokens that carry an address (40 R125, R128 to R130) -/

/-- The tokens the address filter and the debug intercept look at. -/
def addressedTokens (addr : DevAddr) (ep : EpNum) : List Instr :=
  [.tokenSetup addr ep, .tokenIn addr ep, .tokenOut addr ep]

/-- Each of them runs the one procedure, with a routing of its own. -/
theorem exec_of_mem_addressedTokens {addr : DevAddr} {ep : EpNum} {i : Instr} (h : i ∈ addressedTokens addr ep) :
    ∃ accept, ∀ s, exec i s = .next (addressedToken accept addr ep (protocolFrame s)) := by
  simp only [addressedTokens, List.mem_cons, List.not_mem_nil, or_false] at h
  rcases h with rfl | rfl | rfl <;> exact ⟨_, fun _ => rfl⟩

theorem debugIntercepts_iff (s : State) (e : EpNum) :
    debugIntercepts s e = true ↔ s.cfg.debugPresent = true ∧ s.debugActive = true ∧ e = 0 := by
  simp [debugIntercepts, and_assoc]

@[simp] theorem debugIntercepts_protocolFrame (s : State) (e : EpNum) :
    debugIntercepts (protocolFrame s) e = debugIntercepts s e := by
  simp [debugIntercepts]

@[simp] theorem debugIntercepts_tokenPrelude (s : State) (e : EpNum) :
    debugIntercepts (tokenPrelude s) e = debugIntercepts s e := by
  obtain ⟨_, _, _, _, h⟩ := tokenPrelude_frame s
  rw [h]
  rfl

/-- A token to the device that the bridge leaves alone is routed, awaited or not. -/
theorem addressedToken_routed {s : State} (accept : EpNum → State → State) {addr : DevAddr} {ep : EpNum}
    (ha : addr = s.addrEff) (hd : debugIntercepts s ep = false) :
    addressedToken accept addr ep s = accept ep (tokenPrelude s) := by
  have haddr : (tokenPrelude s).addrEff = s.addrEff := congrArg Prod.snd (tokenPrelude_addresses s)
  rw [← addressedToken_tokenPrelude]
  exact addressedToken_accepted accept (tokenPrelude_route s) (ha.trans haddr.symm) (by simpa using hd)

/-- The IN or the OUT token. -/
def dataToken (d : Dir) (addr : DevAddr) (ep : EpNum) : Instr :=
  match d with
  | .dirIn => .tokenIn addr ep
  | .dirOut => .tokenOut addr ep

theorem exec_dataToken (d : Dir) (addr : DevAddr) (ep : EpNum) (s : State) :
    exec (dataToken d addr ep) s = .next (addressedToken (tokenData d) addr ep (protocolFrame s)) := by
  cases d <;> rfl

theorem dataToken_agent (d : Dir) (addr : DevAddr) (ep : EpNum) : (dataToken d addr ep).agent = .protocol := by
  cases d <;> rfl

/-- A data token that is awaited outside IDLE and accepted is routed by RouteData on its endpoint. -/
theorem exec_dataToken_accepted {s : State} {addr : DevAddr} {ep : EpNum} (hr : s.route = .rWait)
    (hg : s.stage ≠ .idle) (ha : addr = s.addrEff) (hd : debugIntercepts s ep = false) (d : Dir) :
    exec (dataToken d addr ep) s = .next (routeData { s with rstPulse := false, curEp := ep } d) := by
  rw [exec_dataToken, protocolFrame_of_not_idle hg,
    addressedToken_accepted (s := { s with rstPulse := false }) _ hr ha hd]
  rfl

theorem routeData_tokenCheck_dirIn {s : State} (h : s.stage = .tokenCheck) :
    routeData s .dirIn = { s with route := .rIn, stage := .genericIn } := if_pos h

theorem routeData_tokenCheck_dirOut {s : State} (h : s.stage = .tokenCheck) :
    routeData s .dirOut = { s with route := .rOut, stage := .genericOut } := if_pos h

/-- A token that a data route was opened for has named the endpoint. -/
theorem dataToken_curEp {s t : State} {d : Dir} {addr : DevAddr} {ep : EpNum}
    (h : exec (dataToken d addr ep) s = .next t) (hr : t.route = genericRoute d) : t.curEp = ep := by
  rw [exec_dataToken] at h
  cases h
  rcases addressedToken_cases (tokenData d) addr ep (protocolFrame s) with ⟨-, e⟩ | ⟨-, -, e⟩ | ⟨-, -, e⟩ <;>
    rw [e] at hr ⊢
  · cases d <;> simp [tokenIgnored_eq, genericRoute] at hr
  · cases d <;> simp [genericRoute] at hr
  · obtain ⟨_, _, e⟩ := routeData_frame { tokenPrelude (protocolFrame s) with curEp := ep } d
    rw [tokenData, e]

/-! ### The data phase (40 R131, R132) -/

theorem setupReceive_of_room {s : State} (b : Byte) (h : s.setupIdx.val < 10) (next : Fin 11)
    (hnext : next.val = s.setupIdx.val + 1) :
    setupReceive s b = { s with
      setupBuf := s.setupBuf.set s.setupIdx.val b h
      setupIsIn := if s.setupIdx.val = 0 then b.getLsbD 7 else s.setupIsIn
      setupLenNz := (decide (s.setupIdx.val = 6 ∨ s.setupIdx.val = 7) && b != 0) || s.setupLenNz
      setupIdx := next } := by
  have he : next = ⟨s.setupIdx.val + 1, hnext ▸ next.isLt⟩ := Fin.ext hnext
  have hnz : (if (s.setupIdx.val = 6 ∨ s.setupIdx.val = 7) ∧ b ≠ 0 then true else s.setupLenNz) =
      ((decide (s.setupIdx.val = 6 ∨ s.setupIdx.val = 7) && b != 0) || s.setupLenNz) := by
    split <;> simp_all
  rw [setupReceive, dif_pos h, hnz, he]

theorem setupReceive_of_full {s : State} (b : Byte) (h : s.setupIdx.val = 10) : setupReceive s b = s :=
  dif_neg (by simp [h])

theorem outReceive_of_room {s : State} (b : Byte) (h : s.outQ.length + s.outRx.length < 128) :
    outReceive s b = { s with outRx := s.outRx ++ [b], outIdle := false } := if_pos h

theorem outReceive_of_full {s : State} (b : Byte) (h : 128 ≤ s.outQ.length + s.outRx.length) :
    outReceive s b = { s with outOvf := true, outIdle := false } := if_neg (Nat.not_lt.2 h)

theorem rxByteEvent_rSetup {s : State} (b : Byte) (h : s.route = .rSetup) : rxByteEvent b s = setupReceive s b := by
  rw [rxByteEvent, h]

theorem rxByteEvent_rOut {s : State} (b : Byte) (h : s.route = .rOut) : rxByteEvent b s = outReceive s b := by
  rw [rxByteEvent, h]

theorem rxByteEvent_elsewhere {s : State} (b : Byte) (hout : s.route ≠ .rOut) (hsetup : s.route ≠ .rSetup) :
    rxByteEvent b s = s := by
  unfold rxByteEvent
  split
  · exact absurd ‹_› hsetup
  · exact absurd ‹_› hout
  all_goals rfl

theorem txPopEvent_in {s : State} (h : s.route = .rIn ∨ s.route = .rStatusIn) : txPopEvent s = inAdvance s := by
  rcases h with h | h <;> rw [txPopEvent, h]

theorem txPopEvent_elsewhere {s : State} (hin : s.route ≠ .rIn) (hstatus : s.route ≠ .rStatusIn) :
    txPopEvent s = s := by
  unfold txPopEvent
  split
  · exact absurd ‹_› hin
  · exact absurd ‹_› hstatus
  all_goals rfl

theorem inAdvance_offered {s : State} (h : txHaveSignal s = true) : inAdvance s = { s with inQ := s.inQ.tail } :=
  if_pos h

theorem inAdvance_none {s : State} (h : txHaveSignal s = false) : inAdvance s = s := if_neg (by simp [h])

/-! ### The end of a transaction (40 R122, R134) -/

/-- Both IN routes end in the In Handler; the status stage and IN return to IDLE, a control stage is kept. -/
theorem endTxn_in {s : State} (c : Bool) (h : s.route = .rIn ∨ s.route = .rStatusIn) :
    endTxn s c = { inEnd s c with
      route := .rNone
      stage := if s.route = .rStatusIn ∨ s.stage = .genericIn then .idle else s.stage } := by
  rcases h with h | h
  · simp [endTxn_rIn c h, h]
  · simp [endTxn_rStatusIn c h, h]

theorem inEnd_armed {s : State} (h : inResp s s.curEp = true) :
    inEnd s true = { s with
      dtb := setEpBit s.dtb s.curEp (!epBit s.dtb s.curEp), inQueued := false, evPend := s.evPend ||| evIn } :=
  if_pos h

theorem inEnd_unarmed {s : State} (h : ¬inResp s s.curEp = true) : inEnd s true = s := if_neg h

/-- The toggle vector after an IN commit, bit by bit. -/
theorem getLsbD_flip (v : EpVec) (e f : EpNum) :
    (setEpBit v e (!epBit v e)).getLsbD f.toNat = if f = e then !v.getLsbD f.toNat else v.getLsbD f.toNat := by
  refine (epBit_setEpBit v e f _).trans ?_
  split
  · next h => rw [h]; rfl
  · rfl

/-- The routes that have nothing to commit end the same way with C = 1. -/
theorem endTxn_commit_irrelevant {s : State}
    (h : s.route = .rNone ∨ s.route = .rWait ∨ s.route = .rStatusOut ∨ s.route = .rDebug) :
    endTxn s true = endTxn s false := by
  rcases h with h | h | h | h
  · rw [endTxn_rNone _ h, endTxn_rNone _ h]
  · rw [endTxn_rWait _ h, endTxn_rWait _ h]
  · rw [endTxn_rStatusOut _ h, endTxn_rStatusOut _ h]
  · rw [endTxn_rDebug _ h, endTxn_rDebug _ h]

/-- Without commit the routes that only SETUP, a status stage or the bridge opens return to IDLE and leave the rest. -/
theorem endTxn_uncommitted_idle {s : State}
    (h : s.route = .rSetup ∨ s.route = .rStatusIn ∨ s.route = .rStatusOut ∨ s.route = .rDebug) :
    endTxn s false = { s with route := .rNone, stage := .idle } := by
  rcases h with h | h | h | h
  · exact endTxn_rSetup_uncommitted h
  · exact endTxn_rStatusIn false h
  · exact endTxn_rStatusOut false h
  · exact endTxn_rDebug false h

/-! ### Stall (40 R135, R143) -/

/-- The bit of the enable bitmap at an endpoint and direction's key is their enable (10 R27). -/
theorem enableBitmap_epKey (s : State) (e : EpNum) (d : Dir) :
    (enableBitmap s).getLsbD (epKey e d) = enabled s e d := by
  have he := e.isLt
  have hlt : epKey e d < 32 := by cases d <;> simp only [epKey] <;> omega
  rw [enableBitmap, BitVec.getLsbD_ofFnLE, dif_pos hlt]
  cases d
  · simp [epKey, enabled, epBit]
  · have hdiv : (2 * e.toNat + 1) / 2 = e.toNat := by omega
    simp [epKey, enabled, epBit, Nat.add_mod, hdiv]

theorem shouldStall_eq_enableBitmap (s : State) (e : EpNum) (d : Dir) :
    shouldStall s e d = !(enableBitmap s).getLsbD (epKey e d) := by
  rw [enableBitmap_epKey, shouldStall]

theorem stallSignal_genericRoute {s : State} {d : Dir} (h : s.route = genericRoute d) :
    stallSignal s = shouldStall s s.curEp d := by
  cases d <;> rw [stallSignal, h] <;> rfl

/-- In the data routes a disabled endpoint and direction is answered STALL whatever the queues hold. -/
theorem stalled_of_disabled {s : State} {d : Dir} (h : s.route = genericRoute d)
    (he : (enableBitmap s).getLsbD (epKey s.curEp d) = false) : handshake s = some .stall ∧ armSignal s = false := by
  have hs : stallSignal s = true := by
    rw [stallSignal_genericRoute h, shouldStall_eq_enableBitmap, he, Bool.not_false]
  refine ⟨?_, armSignal_of_stall (by cases d <;> simp [h, genericRoute]) hs⟩
  cases d
  · rw [handshake_rOut h, if_pos hs]
  · rw [handshake_rIn h, if_pos hs]

/-- A data token's step reads the enables and does not write them, so the answer is that of the state before. -/
theorem dataToken_stalled {s t : State} {d : Dir} {addr : DevAddr} {ep : EpNum}
    (h : exec (dataToken d addr ep) s = .next t) (hr : t.route = genericRoute d)
    (he : (enableBitmap s).getLsbD (epKey ep d) = false) : handshake t = some .stall := by
  have hcpu := exec_protocol_sameCpu (dataToken_agent d addr ep) h
  have hmap : enableBitmap t = enableBitmap s := by simp only [enableBitmap, hcpu.enOut, hcpu.enIn]
  exact (stalled_of_disabled hr (by rw [dataToken_curEp h hr, hmap, he])).1

theorem handshake_ne_stall {s : State} (h : s.route = .rSetup ∨ s.route = .rStatusIn ∨ s.route = .rStatusOut) :
    handshake s ≠ some .stall := by
  rcases h with h | h | h
  · simp [handshake_ack_of_always (.inl h)]
  · rw [handshake_rStatusIn h]
    split <;> simp
  · simp [handshake_ack_of_always (.inr h)]

/-! ### The latched address -/

theorem exec_protocol_addrEff {i : Instr} {s t : State} (hi : i.agent = .protocol) (hne : i ≠ .brst)
    (h : exec i s = .next t) : t.addrEff = if s.stage = .idle then s.addrReg else s.addrEff := by
  rw [exec_protocol_next hi h, ← protocolFrame_addrEff]
  exact congrArg Prod.snd (eventOf_addresses _ hi hne)

/-! ### An OUT packet under the core's contract (44 R241, 60 R330) -/

/-- While an OUT transaction is open the core receives its packet, or has sampled the answer: an ACK only if no byte was
lost. Unlike `PhaseInv` it needs no `EngineInv` to be kept. -/
def OutPhaseInv (p : CorePhase) (s : State) : Prop :=
  s.route = .rOut → (∃ n, p = .receiving n) ∨ ∃ ack, p = .answered ack ∧ (ack = true → s.outOvf = false)

theorem OutPhaseInv.of_route_ne {p : CorePhase} {s : State} (h : s.route ≠ .rOut) : OutPhaseInv p s :=
  fun hr => absurd hr h

/-- A step that is no move of the core and keeps the route and the overflow mark keeps the phase. -/
theorem OutPhaseInv.keepWatch {p : CorePhase} {s t : State} (h : OutPhaseInv p s) (hr : t.route = s.route)
    (ho : t.outOvf = s.outOvf) : OutPhaseInv (keepWatch p t) t := by
  intro hrt
  rw [ho]
  rcases h (hr ▸ hrt) with ⟨n, rfl⟩ | ⟨ack, rfl, hack⟩
  · exact .inl ⟨n, rfl⟩
  · exact .inr ⟨ack, rfl, hack⟩

theorem OutPhaseInv.afterToken (t : State) : OutPhaseInv (afterToken t) t :=
  fun hr => .inl ⟨0, by rw [Machine.afterToken, hr]⟩

theorem OutPhaseInv.protocolFrame {p : CorePhase} {s : State} (h : OutPhaseInv p s) :
    OutPhaseInv p (protocolFrame s) := by
  simpa only [OutPhaseInv, protocolFrame_route, protocolFrame_outOvf] using h

theorem OutPhaseInv.nop {p : CorePhase} {s : State} (h : OutPhaseInv p s) (i : Bool) :
    OutPhaseInv (coreAdvance p (.nop i) (nopEvent i s)) (nopEvent i s) := by
  by_cases hr : s.route = .rWait
  · refine .of_route_ne ?_
    cases i
    · simp [nopEvent_busy hr, hr]
    · simp [nopEvent_idle hr, tokenIgnored_eq]
  · rw [nopEvent_of_not_wait i hr]
    intro hro
    rcases h hro with ⟨n, rfl⟩ | ⟨ack, rfl, hack⟩
    · exact .inl ⟨n, by simp [coreAdvance, Machine.keepWatch]⟩
    · exact .inr ⟨ack, by simp [coreAdvance, Machine.keepWatch], hack⟩

theorem rxByteEvent_route (b : Byte) (s : State) : (rxByteEvent b s).route = s.route := by
  unfold rxByteEvent
  split
  · obtain ⟨_, _, _, _, h⟩ := setupReceive_frame s b
    rw [h]
  · obtain ⟨_, _, _, h⟩ := outReceive_frame s b
    rw [h]
  all_goals rfl

/-- A byte received leaves the core receiving; after its DEND the contract allows no byte (T3). -/
theorem OutPhaseInv.rxb {p : CorePhase} {s t : State} (h : OutPhaseInv p s) (hr : t.route = s.route) (b : Byte)
    (ha : coreAllows p s (.rxb b) = true) : OutPhaseInv (coreAdvance p (.rxb b) t) t := by
  intro hrt
  rcases h (hr ▸ hrt) with ⟨n, rfl⟩ | ⟨ack, rfl, -⟩
  · exact .inl ⟨n + 1, rfl⟩
  · simp [coreAllows] at ha

theorem txPopEvent_route (s : State) : (txPopEvent s).route = s.route := by
  obtain ⟨_, -, h⟩ := inAdvance_frame s
  unfold txPopEvent
  split
  iterate 2 rw [h]
  all_goals rfl

/-- A core that receives sends nothing (T2). -/
theorem OutPhaseInv.txpop {p q : CorePhase} {s t : State} (h : OutPhaseInv p s) (hr : t.route = s.route)
    (ha : coreAllows p s .txpop = true) : OutPhaseInv q t := by
  intro hrt
  rcases h (hr ▸ hrt) with ⟨n, rfl⟩ | ⟨ack, rfl, -⟩ <;> simp [coreAllows] at ha

/-- DEND samples the answer, and a packet that lost a byte is not acknowledged (44 R241). -/
theorem OutPhaseInv.afterDend {p : CorePhase} {t : State} (h : OutPhaseInv p t) (ha : coreAllows p t .dend = true) :
    OutPhaseInv (afterDend p t) t := by
  intro hr
  rcases h hr with ⟨n, rfl⟩ | ⟨ack, rfl, -⟩
  · exact .inr ⟨_, rfl, fun hack => outOvf_of_ack hr (beq_iff_eq.1 hack)⟩
  · simp [coreAllows] at ha

theorem OutPhaseInv.dbg {p : CorePhase} {s : State} (h : OutPhaseInv p s) (a : Bool) :
    OutPhaseInv (Machine.keepWatch p (debugEvent a s)) (debugEvent a s) := by
  unfold debugEvent
  split
  · split
    · exact .of_route_ne nofun
    · exact h.keepWatch rfl rfl
  · exact h.keepWatch rfl rfl

theorem OutPhaseInv.exec_protocol {p : CorePhase} {s t : State} {i : Instr} (h : OutPhaseInv p s)
    (hi : i.agent = .protocol) (ha : coreAllows p s i = true) (hx : exec i s = .next t) :
    OutPhaseInv (coreAdvance p i t) t := by
  rw [exec_protocol_next hi hx]
  have hf := h.protocolFrame
  cases i <;> simp only [Instr.agent, reduceCtorEq] at hi
  case nop i => exact hf.nop i
  case start | txnEnd | err | brst => exact .of_route_ne nofun
  case rxb b => exact hf.rxb (rxByteEvent_route b _) b (by simpa only [coreAllows, protocolFrame_route] using ha)
  case txpop => exact hf.txpop (txPopEvent_route _) ha
  case dend => exact hf.afterDend (by simpa only [coreAllows, protocolFrame_route] using ha)
  case dbg a => exact hf.dbg a
  case reservedKindAB | reservedKindCF => simp [coreAllows] at ha
  all_goals exact OutPhaseInv.afterToken _

/-- Whatever word a core that keeps its contract gives, and whatever the CPU does, from any state. -/
theorem OutPhaseInv.exec {p : CorePhase} {s t : State} {i : Instr} (h : OutPhaseInv p s)
    (ha : coreAllows p s i = true) (hx : exec i s = .next t) : OutPhaseInv (coreAdvance p i t) t := by
  cases hi : i.agent
  case protocol => exact h.exec_protocol hi ha hx
  case control =>
    rw [coreAdvance_control hi]
    obtain ⟨_, _, _, _, _, _, _, _, _, _, _, _, rfl⟩ := exec_control_next hi hx
    exact h.keepWatch rfl rfl

theorem OutPhaseInv.run {p q : CorePhase} {s t : State} (h : OutPhaseInv p s) (run : ContractRun s p t q) :
    OutPhaseInv q t := by
  induction run with
  | refl => exact h
  | tail _ _ allowed next ih => exact (ih h).exec allowed next

/-- A core that may commit in R_OUT has sampled an ACK there. -/
theorem OutPhaseInv.outOvf_of_commit {p : CorePhase} {s : State} (h : OutPhaseInv p s) (hr : s.route = .rOut)
    (ha : coreAllows p s (.txnEnd true) = true) : s.outOvf = false := by
  rcases h hr with ⟨n, rfl⟩ | ⟨ack, rfl, hack⟩
  · simp [coreAllows] at ha
  · exact hack (beq_iff_eq.1 ha).symm

end Sys2Proof.Machine

open Sys2Proof Sys2Proof.Machine

/-- Settles O16: an idle bus closes the wait as an ignored token does, and a busy one is counted. -/
theorem nopResult : Obligations.NopResult := by
  refine fun s => ⟨fun i h => ?_, fun h => ⟨?_, ?_⟩⟩ <;> rw [exec_nop] <;> rw [← protocolFrame_route s] at h
  · rw [nopEvent_of_not_wait i h]
  · rw [nopEvent_idle h, tokenIgnored_protocolFrame]
  · simp only [nopEvent_busy h, protocolFrame_cfg, protocolFrame_tokenWaitCount]
    rfl

/-- Settles O17: opening is one update of the state that END without commit gives, which with no transaction open is the
state itself. -/
theorem startResult : Obligations.StartResult := by
  refine fun s => ⟨fun h => ?_, fun _ => ⟨_, rfl, ?_⟩⟩ <;> rw [exec_start, startTxn_eq]
  rw [endTxn_rNone false ((protocolFrame_route s).trans h), protocolFrame_stage]

/-- Settles O18: the prelude of a token that is not awaited is START, and a second prelude does nothing. -/
theorem tokenWithoutStartActsAsStartThenToken : Obligations.TokenWithoutStartActsAsStartThenToken := by
  intro s pid addr ep h
  have hp : tokenPrelude (protocolFrame s) = startTxn (protocolFrame s) :=
    if_neg (by rwa [protocolFrame_route])
  refine ⟨_, rfl, ?_⟩
  rw [exec_decodeToken, exec_decodeToken, protocolFrame_startTxn, ← hp, eventOf_decodeToken_tokenPrelude]

/-- Settles O19: the 12 PIDs share one event. -/
theorem invalidPidIsCountedAndReturnsToIdle : Obligations.InvalidPidIsCountedAndReturnsToIdle := by
  intro s pid addr ep h hout hin hsof hsetup
  rw [exec_decodeToken, eventOf_decodeToken_invalid addr ep hout hin hsof hsetup,
    tokenInvalid_of_wait ((protocolFrame_route s).trans h)]
  simp only [protocolFrame_cfg, protocolFrame_invalidStateCount]
  rfl

/-- Settles O20: a SOF is ignored always, and the three addressed tokens by the address filter. -/
theorem ignoredTokensCloseTheWait : Obligations.IgnoredTokensCloseTheWait := by
  intro s addr ep h
  rw [← protocolFrame_route s] at h
  refine ⟨?_, fun ha i hi => ?_⟩
  · rw [exec_tokenSof, tokenSof, tokenPrelude_of_wait h, tokenIgnored_protocolFrame]
  · obtain ⟨accept, hx⟩ := exec_of_mem_addressedTokens hi
    rw [hx, addressedToken_mismatch accept h ha, tokenIgnored_protocolFrame]

/-- Settles O21: the intercept comes before the token's own routing, and is the conjunction of its three conditions. -/
theorem debugSessionTakesEndpointZeroTokens : Obligations.DebugSessionTakesEndpointZeroTokens := by
  refine ⟨fun s addr h ha hp hact i hi => ?_, debugIntercepts_iff⟩
  obtain ⟨accept, hx⟩ := exec_of_mem_addressedTokens hi
  have hd : debugIntercepts (protocolFrame s) 0 = true := by
    rw [debugIntercepts_protocolFrame, debugIntercepts_iff]
    exact ⟨hp, hact, rfl⟩
  rw [hx, addressedToken_intercepted accept ((protocolFrame_route s).trans h) ha hd]
  rfl

/-- Settles O22: TokenSetup after the frame, with the record discarded. -/
theorem setupTokenResult : Obligations.SetupTokenResult := by
  intro s addr ep h ha hd
  rw [exec_tokenSetup, addressedToken_accepted _ ((protocolFrame_route s).trans h) ha
    ((debugIntercepts_protocolFrame s ep).trans hd)]
  rfl

/-- Settles O23: RouteData tests for TOKEN_CHECK first. -/
theorem genericDataTokenResult : Obligations.GenericDataTokenResult := by
  intro s addr ep h hg ha hd
  have hx := exec_dataToken_accepted h (by simp [hg]) ha hd
  exact ⟨(hx .dirIn).trans (congrArg _ (routeData_tokenCheck_dirIn hg)),
    (hx .dirOut).trans (congrArg _ (routeData_tokenCheck_dirOut hg))⟩

/-- Settles O26: outside IDLE the frame keeps the byte counter, and SetupReceive stores while it is below ten. -/
theorem rxbInSetupResult : Obligations.RxbInSetupResult := by
  intro s b hr hg
  have hx : exec (.rxb b) s = .next (setupReceive { s with rstPulse := false } b) := by
    rw [exec_rxb, protocolFrame_of_not_idle hg, rxByteEvent_rSetup]
    exact hr
  refine ⟨fun h next hnext => ?_, fun h => ?_⟩ <;> rw [hx]
  · rw [setupReceive_of_room (s := { s with rstPulse := false }) b h next hnext]
  · rw [setupReceive_of_full (s := { s with rstPulse := false }) b h]

/-- Settles O27: OutReceive by the room that is left. -/
theorem rxbOutsideSetupResult : Obligations.RxbOutsideSetupResult := by
  refine fun s b => ⟨fun hr => ?_, fun hout hsetup => ?_⟩
  · have hx : exec (.rxb b) s = .next (outReceive (protocolFrame s) b) := by
      rw [exec_rxb, rxByteEvent_rOut b ((protocolFrame_route s).trans hr)]
    refine ⟨fun h => ?_, fun h => ?_⟩ <;> rw [hx]
    · rw [outReceive_of_room b (by simpa using h), protocolFrame_outRx]
    · rw [outReceive_of_full b (by simpa using h)]
  · rw [exec_rxb, rxByteEvent_elsewhere b] <;> rwa [protocolFrame_route]

/-- Settles O28: InAdvance by `tx_have`, which the frame leaves as it was. -/
theorem txpopResult : Obligations.TxpopResult := by
  intro s
  have hx : (s.route = .rIn ∨ s.route = .rStatusIn) → exec .txpop s = .next (inAdvance (protocolFrame s)) := by
    intro hr
    rw [exec_txpop, txPopEvent_in (by rwa [protocolFrame_route])]
  refine ⟨fun hr h => ?_, fun hr h => ?_, fun hin hstatus => ?_, fun hr => ?_, fun hr => (signals_of_statusIn hr).2.2⟩
  · rw [hx hr, inAdvance_offered ((txHaveSignal_protocolFrame s).trans h), protocolFrame_inQ]
  · rw [hx hr, inAdvance_none ((txHaveSignal_protocolFrame s).trans h)]
  · rw [exec_txpop, txPopEvent_elsewhere] <;> rwa [protocolFrame_route]
  · exact (txHaveSignal_rIn_iff hr).trans (by rw [and_assoc])

/-- Settles O30: InEnd has an effect on the armed endpoint alone. -/
theorem inCommitResult : Obligations.InCommitResult := by
  intro s hr
  have hx : exec (.txnEnd true) s = .next { inEnd (protocolFrame s) true with
      route := .rNone
      stage := if s.route = .rStatusIn ∨ s.stage = .genericIn then .idle else s.stage } := by
    rw [exec_txnEnd, endTxn_in true (by rwa [protocolFrame_route]), protocolFrame_route,
      protocolFrame_stage]
  have hresp : inResp (protocolFrame s) (protocolFrame s).curEp = true ↔ s.inQueued = true ∧ s.inEp = s.curEp := by
    simp [inResp_iff]
  refine ⟨fun h => ⟨_, getLsbD_flip s.dtb s.curEp, ?_⟩, fun h => ?_⟩ <;> rw [hx]
  · simp only [inEnd_armed (hresp.2 h), protocolFrame_dtb, protocolFrame_curEp, protocolFrame_evPend]
    rfl
  · rw [inEnd_unarmed (mt hresp.1 h)]

/-- Settles O31: OutEnd with commit, and OUT is left for IDLE. -/
theorem outCommitResult : Obligations.OutCommitResult := by
  intro s hr
  rw [exec_txnEnd, endTxn_rOut true ((protocolFrame_route s).trans hr), outEnd_commit]
  simp only [protocolFrame_outQ, protocolFrame_outRx, protocolFrame_curEp, protocolFrame_evPend, protocolFrame_stage]
  rfl

/-- Settles O32: EndTxn by route. -/
theorem uncommittedEndResult : Obligations.UncommittedEndResult := by
  intro s
  refine ⟨fun h => ?_, fun h => ?_, fun h => ?_, fun h => ?_, fun h => ?_, fun h => ?_⟩ <;>
    rw [← protocolFrame_route s] at h <;> simp only [exec_txnEnd]
  · rw [endTxn_rNone false h]
  · rw [endTxn_rWait false h, protocolFrame_stage]
  · rw [endTxn_rIn false h, protocolFrame_stage]
    rfl
  · rw [endTxn_rOut false h, outEnd_uncommitted, protocolFrame_stage]
  · rw [endTxn_uncommitted_idle h]
  · rw [endTxn_commit_irrelevant h]

/-- Settles O47: the enables at the endpoint and direction's key, read in the two data routes alone. -/
theorem stallPolicy : Obligations.StallPolicy := by
  refine fun s => ⟨fun e => ⟨rfl, rfl⟩, shouldStall_eq_enableBitmap s, stallSignal_genericRoute (d := .dirIn),
    stallSignal_genericRoute (d := .dirOut), fun h => ?_⟩
  rcases h with h | h | h
  · exact (signals_of_setup_or_statusOut (.inl h)).2.1
  · exact (signals_of_statusIn h).2.1
  · exact (signals_of_setup_or_statusOut (.inr h)).2.1

/-- Settles O48: the outputs of R_SETUP ask nothing of the state, and every SETUP to the device opens R_SETUP. -/
theorem setupAlwaysAck : Obligations.SetupAlwaysAck := by
  refine ⟨fun s h => ?_, fun s addr ep ha hd => ⟨_, rfl, ?_⟩⟩
  · obtain ⟨harm, hstall, -, -, hack⟩ := signals_of_setup_or_statusOut (.inl h)
    exact ⟨harm, hstall, hack⟩
  · rw [addressedToken_routed _ ha ((debugIntercepts_protocolFrame s ep).trans hd)]
    exact ⟨rfl, handshake_ack_of_always (.inl rfl)⟩

/-- Settles O49: in the data routes the stall is the enable's alone, a data token does not write the enables, and from
IDLE it opens a data route. -/
theorem stallDeterminism : Obligations.StallDeterminism := by
  refine ⟨fun s => stalled_of_disabled (d := .dirIn), fun s => stalled_of_disabled (d := .dirOut),
    fun s => handshake_ne_stall, fun s t addr ep => dataToken_stalled (d := .dirIn),
    fun s t addr ep => dataToken_stalled (d := .dirOut), fun s addr ep h hg ha hd => ?_⟩
  obtain ⟨hin, hout⟩ := genericDataTokenResult s addr ep h hg ha hd
  exact ⟨⟨_, hin, rfl⟩, ⟨_, hout, rfl⟩⟩

/-- Settles O57: the CPU's accesses leave the latched address, BRST clears it, and any other protocol event leaves what
the frame latched. -/
theorem addressIsLatchedInIdle : Obligations.AddressIsLatchedInIdle := by
  intro i s t hx hne
  cases hi : i.agent
  case protocol =>
    refine ⟨rfl, ?_⟩
    by_cases hb : i = .brst
    · subst hb
      cases hx
      exact .inr ⟨rfl, rfl⟩
    · have ht := exec_protocol_addrEff hi hb hx
      by_cases hg : s.stage = .idle
      · exact .inl ⟨hg, by rw [ht, if_pos hg]⟩
      · exact absurd (by rw [ht, if_neg hg]) hne
  case control =>
    obtain ⟨_, _, _, _, _, _, _, _, _, _, _, _, rfl⟩ := exec_control_next hi hx
    exact absurd rfl hne

/-- Settles O60: with no transaction open the invariant of the OUT packet holds of itself, every step of the run keeps
it, and where the core may commit it says that no byte was lost. -/
theorem committedOutPacketIsWhole : Obligations.CommittedOutPacketIsWhole := by
  intro s t p hs run hr ha
  have h : OutPhaseInv .between s := .of_route_ne (by simp [hs])
  exact (h.run run).outOvf_of_commit hr ha

/-- Settles O15: DEND runs no event after the frame. -/
theorem dendRunsOnlyTheFrame : Obligations.DendRunsOnlyTheFrame := fun s => ⟨rfl, protocolFrame_eq s⟩
end

