-- ==== Sys2Proof/Proofs/ControlSequencer.lean ====
section
/-! PROOFS. The control-transfer sequencer of 41_control_sequencer.md: where a data token goes during a control transfer
(41 R160), the commit of a SETUP (R167), and DBG (R172). -/

namespace Sys2Proof.Machine

/-! ### Data tokens during a control transfer (41 R160) -/

/-- The debug bridge takes endpoint 0 alone. -/
theorem debugIntercepts_of_ne_zero (s : State) {e : EpNum} (h : e ≠ 0) : debugIntercepts s e = false :=
  Bool.eq_false_iff.2 fun hd => h ((debugIntercepts_iff s e).1 hd).2.2

/-- Outside TOKEN_CHECK another endpoint than 0 is routed by the direction alone. -/
theorem routeData_otherEndpoint {s : State} (d : Dir) (hg : s.stage ≠ .tokenCheck) (he : s.curEp ≠ 0) :
    routeData s d = { s with route := genericRoute d } :=
  (if_neg hg).trans (if_pos he)

/-- A token on endpoint 0, with the stage it is routed in written out, so that RouteData evaluates on it. -/
theorem exec_dataToken_endpointZero {s : State} {addr : DevAddr} {g : Stage} (hr : s.route = .rWait)
    (ha : addr = s.addrEff) (hd : debugIntercepts s 0 = false) (hg : s.stage = g) (hne : g ≠ .idle) (d : Dir) :
    exec (dataToken d addr 0) s = .next (routeData { s with rstPulse := false, curEp := 0, stage := g } d) := by
  subst hg
  exact exec_dataToken_accepted hr hne ha hd d

/-! ### DBG (41 R172) -/

theorem exec_dbg (a : Bool) (s : State) : exec (.dbg a) s = .next (debugEvent a (protocolFrame s)) := rfl

theorem debugEvent_absent {s : State} (a : Bool) (h : s.cfg.debugPresent = false) : debugEvent a s = s := by
  simp [debugEvent, h]

theorem debugEvent_flag {s : State} {a : Bool} (h : s.cfg.debugPresent = true) (ha : a = true ∨ s.route ≠ .rDebug) :
    debugEvent a s = { s with debugActive := a } := by
  have hstay : ¬((!a) = true ∧ s.route = .rDebug) := by
    rintro ⟨hfalse, hr⟩
    exact ha.elim (fun htrue => by simp [htrue] at hfalse) (fun hne => hne hr)
  rw [debugEvent, if_pos h, if_neg hstay]

theorem debugEvent_leave {s : State} (h : s.cfg.debugPresent = true) (hr : s.route = .rDebug) :
    debugEvent false s = { s with debugActive := false, route := .rNone, stage := .idle } := by
  rw [debugEvent, if_pos h, if_pos ⟨rfl, hr⟩]

end Sys2Proof.Machine

open Sys2Proof Sys2Proof.Machine

/-- Settles O24: the bridge leaves the endpoint alone, and in a control stage RouteData looks at its direction alone. -/
theorem otherEndpointDuringControlTransfer : Obligations.OtherEndpointDuringControlTransfer := by
  intro s addr ep hr hg ha he
  have ⟨hidle, hcheck⟩ : s.stage ≠ .idle ∧ s.stage ≠ .tokenCheck := by
    rcases hg with hg | hg | hg | hg <;> simp [hg]
  have hx (d : Dir) : exec (dataToken d addr ep) s =
      .next { s with rstPulse := false, curEp := ep, route := genericRoute d } := by
    rw [exec_dataToken_accepted hr hidle ha (debugIntercepts_of_ne_zero s he),
      routeData_otherEndpoint (s := { s with rstPulse := false, curEp := ep }) d hcheck he]
  exact ⟨hx .dirIn, hx .dirOut⟩

/-- Settles O25: in each of the four stages RouteData evaluates to the two entries of its table. -/
theorem controlStageRoutingTable : Obligations.ControlStageRoutingTable := by
  intro s addr hr ha hd
  have hx {g : Stage} (hg : s.stage = g) (hne : g ≠ .idle) (d : Dir) :=
    exec_dataToken_endpointZero hr ha hd hg hne d
  exact ⟨fun hg => ⟨hx hg (by decide) .dirIn, hx hg (by decide) .dirOut⟩,
    fun hg => ⟨hx hg (by decide) .dirOut, hx hg (by decide) .dirIn⟩,
    fun hg => ⟨hx hg (by decide) .dirIn, hx hg (by decide) .dirOut⟩,
    fun hg => ⟨hx hg (by decide) .dirOut, hx hg (by decide) .dirIn⟩⟩

/-- Settles O29: outside IDLE the frame keeps the byte counter, which becomes the record's length. -/
theorem setupCommitResult : Obligations.SetupCommitResult := by
  intro s hr hg
  refine ⟨setEpBit s.dtb s.curEp true, fun e => epBit_setEpBit s.dtb s.curEp e true, ?_⟩
  rw [exec_txnEnd, endTxn_rSetup_commit ((protocolFrame_route s).trans hr), protocolFrame_of_not_idle hg]
  rfl

/-- Settles O33: the three cases of DBG, whose conditions the frame leaves as they were. -/
theorem dbgResult : Obligations.DbgResult := by
  intro s a
  rw [← protocolFrame_cfg s, ← protocolFrame_route s]
  exact ⟨fun h => by rw [exec_dbg, debugEvent_absent a h],
    fun h ha => by rw [exec_dbg, debugEvent_flag h ha],
    fun h hr => by rw [exec_dbg, debugEvent_leave h hr]⟩
end

