-- ==== Sys2Proof/Proofs/InHandler.lean ====
section
/-! PROOFS. The In Handler of 43_in_handler.md: the two ways a data toggle changes (43 R210, R216), the push of IN_DATA
(R220), and IN_CTRL (R215, R221). -/

namespace Sys2Proof.Machine

/-! ### The toggle vector (43 R210, R216) -/

/-- InEnd with commit flips the bit of the endpoint it runs on, if that endpoint is armed. -/
theorem inEnd_commit_dtb (s : State) (e : EpNum) :
    (inEnd s true).dtb.getLsbD e.toNat =
      if s.curEp = e ∧ s.inQueued = true ∧ s.inEp = e then !s.dtb.getLsbD e.toNat else s.dtb.getLsbD e.toNat := by
  by_cases hresp : inResp s s.curEp = true
  · obtain ⟨hq, hep⟩ := (inResp_iff s s.curEp).1 hresp
    rw [inEnd_armed hresp, getLsbD_flip, hep]
    by_cases he : e = s.curEp
    · rw [if_pos he, if_pos ⟨he.symm, hq, he.symm⟩]
    · rw [if_neg he, if_neg fun h => he h.1.symm]
  · rw [inEnd_unarmed hresp, if_neg]
    rintro ⟨rfl, harmed⟩
    exact hresp ((inResp_iff s _).2 harmed)

/-- EndTxn with commit writes the toggle vector in R_SETUP and in the two IN routes alone. -/
theorem endTxn_commit_dtb (s : State) (e : EpNum) :
    (endTxn s true).dtb.getLsbD e.toNat =
      if s.route = .rSetup ∧ s.curEp = e then true
      else if (s.route = .rIn ∨ s.route = .rStatusIn) ∧ s.curEp = e ∧ s.inQueued = true ∧ s.inEp = e
        then !s.dtb.getLsbD e.toNat
      else s.dtb.getLsbD e.toNat := by
  cases hr : s.route
  case rSetup =>
    have hset : (setEpBit s.dtb s.curEp true).getLsbD e.toNat = if e = s.curEp then true else s.dtb.getLsbD e.toNat :=
      epBit_setEpBit s.dtb s.curEp e true
    simp [endTxn_rSetup_commit hr, hset, eq_comm (a := e)]
  case rIn => simpa [endTxn_rIn true hr] using inEnd_commit_dtb s e
  case rStatusIn => simpa [endTxn_rStatusIn true hr] using inEnd_commit_dtb s e
  case rOut => simp [endTxn_rOut true hr, outEnd_commit]
  case rNone => simp [endTxn_rNone true hr]
  case rWait => simp [endTxn_rWait true hr]
  case rStatusOut => simp [endTxn_rStatusOut true hr]
  case rDebug => simp [endTxn_rDebug true hr]

/-- No instruction of either agent but a committed END touches the toggle vector. -/
theorem exec_dtb_of_ne_commit {i : Instr} {s t : State} (hx : exec i s = .next t) (hne : i ≠ .txnEnd true) :
    t.dtb = s.dtb := by
  cases hi : i.agent
  case protocol =>
    rw [exec_protocol_next hi hx, (eventOf_frame _ hi hne).1.dtb, protocolFrame_dtb]
  case control =>
    obtain ⟨_, _, _, _, _, _, _, _, _, _, _, _, rfl⟩ := exec_control_next hi hx
    rfl

/-! ### The writes of IN_DATA and IN_CTRL (43 R215, R220, R221) -/

theorem inPush_of_room {s : State} (b : Byte) (h : s.inQ.length < 128) : inPush s b = { s with inQ := s.inQ ++ [b] } :=
  if_pos h

theorem inPush_of_full {s : State} (b : Byte) (h : 128 ≤ s.inQ.length) : inPush s b = s := if_neg (Nat.not_lt.2 h)

theorem inArm_of_idle {s : State} (e : EpNum) (h : s.inQueued = false) :
    inArm s e = { s with inEp := e, inQueued := true } := if_neg (by simp [h])

theorem inArm_of_queued {s : State} (e : EpNum) (h : s.inQueued = true) : inArm s e = s := if_pos h

theorem exec_wrInData (d : Word) (s : State) : exec (.wrInData d) s = .next (inPush s (fieldByte d)) := rfl

theorem exec_wrInCtrl_reset {d : Word} (s : State) (h : d.getLsbD 4 = true) :
    exec (.wrInCtrl d) s = .next (inFlush s) := congrArg Host.Outcome.next (if_pos h)

theorem exec_wrInCtrl_arm {d : Word} (s : State) (h : d.getLsbD 4 = false) :
    exec (.wrInCtrl d) s = .next (inArm s (fieldEpno d)) := congrArg Host.Outcome.next (if_neg (Bool.eq_false_iff.1 h))

end Sys2Proof.Machine

open Sys2Proof Sys2Proof.Machine

/-- Settles O55: a committed END sets or flips the bit by its route, and no other step touches the vector. -/
theorem toggleChangesInTwoWays : Obligations.ToggleChangesInTwoWays := by
  intro i s t e hx
  by_cases hc : i = .txnEnd true
  · subst hc
    cases hx
    simpa using endTxn_commit_dtb (protocolFrame s) e
  · simp [hc, exec_dtb_of_ne_commit hx hc]

/-- Settles O44: the push by the room that is left. -/
theorem inDataPushResult : Obligations.InDataPushResult := by
  refine fun s d => ⟨fun h => ?_, fun h => ?_⟩ <;> rw [exec_wrInData]
  · rw [inPush_of_room _ h]
    rfl
  · rw [inPush_of_full _ h]

/-- Settles O45: RESET is tested first, and the arm then tests for a queued transfer. -/
theorem inCtrlResult : Obligations.InCtrlResult := by
  refine fun s d => ⟨exec_wrInCtrl_reset s, fun h hq => ?_, fun h hq => ?_⟩ <;> rw [exec_wrInCtrl_arm s h]
  · rw [inArm_of_idle _ hq]
    rfl
  · rw [inArm_of_queued _ hq]
end

