-- ==== Sys2Proof/Proofs/OutHandler.lean ====
section
/-! PROOFS. The Out Handler of 44_out_handler.md: the read of OUT_DATA (R250) and the write of OUT_CTRL (R251). -/

namespace Sys2Proof.Machine

theorem dataRead_some (b : Byte) (s : State) : dataRead (some b) s = b.setWidth 32 := rfl

theorem dataRead_none (s : State) : dataRead none s = (Config.draw8 s.drawIdx).setWidth 32 := rfl

theorem outControl_pop {s : State} {b : Byte} {rest : List Byte} (hq : s.outQ = b :: rest) (enable : Bool) :
    outControl s true enable = { s with outQ := rest, outEn := enable } := by
  rw [outControl, if_pos rfl, hq, List.tail_cons]

/-- Without ADVANCE, and with nothing to pop, OUT_CTRL writes the enable alone. -/
theorem outControl_keep {s : State} {advance : Bool} (h : advance = false ∨ s.outQ = []) (enable : Bool) :
    outControl s advance enable = { s with outEn := enable } := by
  have hq : (if advance then s.outQ.tail else s.outQ) = s.outQ := by
    rcases h with rfl | hnil
    · exact if_neg Bool.false_ne_true
    · rw [hnil, List.tail_nil, ite_self]
  rw [outControl, hq]

theorem exec_rdOutData (s : State) :
    exec .rdOutData s = .next { s with readData := some (dataRead s.outQ.head? s) } := rfl

theorem exec_wrOutCtrl (d : Word) (s : State) :
    exec (.wrOutCtrl d) s = .next (outControl s (d.getLsbD 0) (d.getLsbD 1)) := rfl

end Sys2Proof.Machine

open Sys2Proof Sys2Proof.Machine

/-- Settles O46: the read shows the head of the FIFO if it has one, and the write pops when ADVANCE meets a byte. -/
theorem outDataAndCtrlResults : Obligations.OutDataAndCtrlResults := by
  refine fun s => ⟨fun b rest hq => ⟨?_, fun d hadv => ?_⟩, fun hq => ?_, fun d hkeep => ?_⟩
  · rw [exec_rdOutData, hq, List.head?_cons, dataRead_some]
  · rw [exec_wrOutCtrl, hadv, outControl_pop hq]
  · rw [exec_rdOutData, hq, List.head?_nil, dataRead_none]
  · rw [exec_wrOutCtrl, outControl_keep hkeep]
end

