-- ==== Sys2Proof/Proofs/GlobalRegisters.lean ====
section
/-! PROOFS. The register map of 45_global_registers.md: the writes of the global and event registers (R271 to R283), and
the accesses with no effect: of read-only registers (R284), of write-only ones (R285), of unmapped offsets (R286). -/

namespace Sys2Proof

/-! ### The register index of an offset (30 R100) -/

/-- An access word decodes by W, the upper six bits of its byte offset, and D. -/
theorem decode_caw_offset (w : BitVec 1) (off : BitVec 8) (d : Word) : decode (.caw (w ++ off ++ d)) =
    if w.getLsbD 0 then decodeWr (off.extractLsb' 2 6) d else decodeRd (off.extractLsb' 2 6) := by
  have hoff : (off.extractLsb' 2 6 ++ off.extractLsb' 0 2 : BitVec 8) = off :=
    (BitVec.extractLsb'_append_extractLsb'_eq_extractLsb' rfl).trans BitVec.extractLsb'_eq_self
  have hword : (w ++ off.extractLsb' 2 6 ++ off.extractLsb' 0 2 : BitVec 9) = w ++ off :=
    BitVec.append_assoc.trans (congrArg (w ++ ·) hoff)
  rw [← hword]
  exact decode_caw_append w (off.extractLsb' 2 6) (off.extractLsb' 0 2) d

theorem le_index_of_le_offset {off : BitVec 8} (h : 0x48#8 ≤ off) : 0x12#6 ≤ off.extractLsb' 2 6 := by
  revert off
  decide

/-! ### The instructions of an unmapped register index (R286) -/

def unmappedReads (reg : BitVec 6) : List Instr :=
  [.rdUnmapped48 reg, .rdUnmapped50 reg, .rdUnmapped60 reg, .rdUnmapped80 reg]

def unmappedWrites (reg : BitVec 6) (d : Word) : List Instr :=
  [.wrUnmapped48 reg d, .wrUnmapped50 reg d, .wrUnmapped60 reg d, .wrUnmapped80 reg d]

theorem decodeRd_mem_unmappedReads {reg : BitVec 6} (h : 0x12#6 ≤ reg) : decodeRd reg ∈ unmappedReads reg := by
  rw [decodeRd_unmapped h]
  split_ifs <;> simp [unmappedReads]

theorem decodeWr_mem_unmappedWrites {reg : BitVec 6} (h : 0x12#6 ≤ reg) (d : Word) :
    decodeWr reg d ∈ unmappedWrites reg d := by
  rw [decodeWr_unmapped h]
  split_ifs <;> simp [unmappedWrites]

end Sys2Proof

namespace Sys2Proof.Machine

theorem exec_of_mem_unmappedReads {i : Instr} {reg : BitVec 6} (h : i ∈ unmappedReads reg) (s : State) :
    exec i s = .next { s with readData := some 0 } := by
  unfold unmappedReads at h
  fin_cases h <;> exact cpuRead_eq 0 s

theorem exec_of_mem_unmappedWrites {i : Instr} {reg : BitVec 6} {d : Word} (h : i ∈ unmappedWrites reg d) (s : State) :
    exec i s = .next s := by
  unfold unmappedWrites at h
  fin_cases h <;> exact cpuIgnore_eq s

end Sys2Proof.Machine

open Sys2Proof Sys2Proof.Machine

/-- Settles O40: an offset from 0x48 on has a register index past the 18 registers, which decodes to an access of one of
the four unmapped rows. -/
theorem unmappedOffsetsReadZeroAndIgnoreWrites : Obligations.UnmappedOffsetsReadZeroAndIgnoreWrites := by
  refine ⟨fun s off d h => ?_, fun s reg i hi => exec_of_mem_unmappedReads hi s,
    fun s reg d i hi => exec_of_mem_unmappedWrites hi s⟩
  have hreg := le_index_of_le_offset h
  rw [decode_caw_offset, decode_caw_offset]
  exact ⟨exec_of_mem_unmappedReads (decodeRd_mem_unmappedReads hreg) s,
    exec_of_mem_unmappedWrites (decodeWr_mem_unmappedWrites hreg d) s⟩

/-- Settles O36: the meaning of each of the five is a write of its own field, from the low bits of D that the field's
accessor takes. -/
theorem globalRegisterWriteResults : Obligations.GlobalRegisterWriteResults := fun _ _ => ⟨rfl, rfl, rfl, rfl, rfl⟩

/-- Settles O38: the meaning of each of the nine writes is the write without effect. -/
theorem readOnlyWritesAreIgnored : Obligations.ReadOnlyWritesAreIgnored := by
  intro s d i hi
  fin_cases hi <;> exact cpuIgnore_eq s

/-- Settles O39: the meaning of each of the four reads is the read of 0. -/
theorem writeOnlyReadsReturnZero : Obligations.WriteOnlyReadsReturnZero := by
  intro s i hi
  fin_cases hi <;> exact cpuRead_eq 0 s
end

