-- ==== Sys2Proof/Proofs/Exceptions.lean ====
section
/-! PROOFS. The abnormal events of 60_exceptions.md: ERR and BRST (R300, R301), the diagnostic counters (R305), that no
legal word faults (R310), and the pending bits (R311, R312). -/

namespace Sys2Proof.Machine

/-! ### ERR and BRST (60 R300, R301) -/

theorem exec_err (s : State) : exec .err s = .next (errorEvent (protocolFrame s)) := rfl

theorem exec_brst (s : State) : exec .brst s = .next (busResetEvent (protocolFrame s)) := rfl

/-- EndTxn without commit neither reads nor writes the reset output and the error counter. -/
theorem endTxn_false_report (s : State) (pulse : Bool) (count : Word) :
    endTxn { s with rstPulse := pulse, errorCount := count } false =
      { endTxn s false with rstPulse := pulse, errorCount := count } := by
  simp only [endTxn, endRoute, setupEnd, leaveStage_eq, inEnd_eq, outEnd_uncommitted]
  cases s.route <;> rfl

/-! ### The pending bits (60 R311) -/

/-- The events END with C = 1 raises, by route (42 R194, 43 R213, 44 R242). -/
def commitEvents (s : State) : EvBits :=
  match s.route with
  | .rSetup => evSetup
  | .rIn | .rStatusIn => if inResp s s.curEp then evIn else 0
  | .rOut => evOut
  | .rNone | .rWait | .rStatusOut | .rDebug => 0

theorem inEnd_commit_evPend (s : State) :
    (inEnd s true).evPend = s.evPend ||| if inResp s s.curEp then evIn else 0 := by
  by_cases h : inResp s s.curEp = true
  · rw [inEnd_armed h, if_pos h]
  · rw [inEnd_unarmed h, if_neg h]
    exact BitVec.or_zero.symm

theorem endTxn_commit_evPend (s : State) : (endTxn s true).evPend = s.evPend ||| commitEvents s := by
  cases h : s.route <;> simp only [commitEvents, h]
  case rSetup => rw [endTxn_rSetup_commit h]
  case rIn | rStatusIn =>
    rw [endTxn_in true (by simp [h])]
    exact inEnd_commit_evPend s
  case rOut => rw [endTxn_rOut true h, outEnd_commit]
  case rNone | rWait | rStatusOut | rDebug =>
    obtain ⟨_, _, _, _, hend⟩ := endTxn_false_frame s
    rw [endTxn_commit_irrelevant (by simp [h]), hend]
    exact BitVec.or_zero.symm

theorem commitEvents_setup (s : State) : (commitEvents s).getLsbD 0 = true ↔ s.route = .rSetup := by
  unfold commitEvents
  cases s.route <;> cases inResp s s.curEp <;> decide

theorem commitEvents_in (s : State) : (commitEvents s).getLsbD 1 = true ↔
    (s.route = .rIn ∨ s.route = .rStatusIn) ∧ s.inQueued = true ∧ s.inEp = s.curEp := by
  rw [← inResp_iff]
  unfold commitEvents
  cases s.route <;> cases inResp s s.curEp <;> decide

theorem commitEvents_out (s : State) : (commitEvents s).getLsbD 2 = true ↔ s.route = .rOut := by
  unfold commitEvents
  cases s.route <;> cases inResp s s.curEp <;> decide

theorem commitEvents_protocolFrame (s : State) : commitEvents (protocolFrame s) = commitEvents s := by
  simp [commitEvents, inResp]

/-- Of the CPU's accesses a write of EV_PENDING alone writes the pending bits (45 R281). -/
theorem exec_control_evPend {i : Instr} {s t : State} (hi : i.agent = .control) (hx : exec i s = .next t)
    (hne : ∀ d, i ≠ .wrEvPending d) : t.evPend = s.evPend := by
  cases i <;> simp only [Instr.agent, reduceCtorEq] at hi <;> cases hx
  case wrEvPending d => exact absurd rfl (hne d)
  case wrInData d =>
    obtain ⟨_, h⟩ := inPush_frame s (fieldByte d)
    dsimp only
    rw [h]
  case wrInCtrl d =>
    obtain ⟨_, _, h⟩ := inArm_frame s (fieldEpno d)
    dsimp only
    split
    · exact inFlush_evPend s
    · rw [h]
  case wrSetupAdvance d =>
    obtain ⟨_, h⟩ := setupAdvance_frame s
    rw [h]
  all_goals rfl

/-- A write of EV_PENDING clears the bits it writes 1 to (45 R281). -/
theorem getLsbD_clearEvents (v : EvBits) (d : Word) {k : Nat} (hk : k < 3) :
    (v &&& ~~~fieldEvents d).getLsbD k = true ↔ v.getLsbD k = true ∧ ¬d.getLsbD k = true := by
  simp [fieldEvents, hk]

/-- The step leaves the pending bit at 1: it was 1, and the step did not write 1 to it (60 R311). -/
def KeepsPending (i : Instr) (s : State) (k : Nat) : Prop :=
  s.evPend.getLsbD k = true ∧ ¬∃ d, i = .wrEvPending d ∧ d.getLsbD k = true

theorem keepsPending_of_ne {i : Instr} (s : State) (k : Nat) (h : ∀ d, i ≠ .wrEvPending d) :
    KeepsPending i s k ↔ s.evPend.getLsbD k = true :=
  and_iff_left fun ⟨d, hd, _⟩ => h d hd

/-- A pending bit after any step (60 R311). -/
theorem exec_evPend_iff {i : Instr} {s t : State} (hx : exec i s = .next t) {k : Nat} (hk : k < 3) :
    t.evPend.getLsbD k = true ↔
      (i = .txnEnd true ∧ (commitEvents s).getLsbD k = true) ∨ KeepsPending i s k := by
  by_cases hc : i = .txnEnd true
  · subst hc
    cases hx
    rw [keepsPending_of_ne s k fun _ => by simp, endTxn_commit_evPend, commitEvents_protocolFrame,
      protocolFrame_evPend, BitVec.getLsbD_or, Bool.or_eq_true, or_comm, and_iff_right rfl]
  · rw [or_iff_right fun h => hc h.1]
    by_cases hw : ∃ d, i = .wrEvPending d
    · obtain ⟨d, rfl⟩ := hw
      cases hx
      rw [getLsbD_clearEvents s.evPend d hk]
      simp [KeepsPending]
    · rw [not_exists] at hw
      rw [keepsPending_of_ne s k hw]
      cases hi : i.agent
      case protocol => rw [exec_protocol_next hi hx, (eventOf_frame _ hi hc).1.evPend, protocolFrame_evPend]
      case control => rw [exec_control_evPend hi hx hw]

/-! ### The diagnostic counters (60 R305) -/

/-- The instructions of the 12 PIDs that are no token (40 R126). -/
def isInvalidToken : Instr → Bool
  | .tokenInvalidRsv0 _ _ | .tokenInvalidAck _ _ | .tokenInvalidData0 _ _ | .tokenInvalidPing _ _
  | .tokenInvalidNyet _ _ | .tokenInvalidData2 _ _ | .tokenInvalidSplit _ _ | .tokenInvalidNak _ _
  | .tokenInvalidData1 _ _ | .tokenInvalidPreErr _ _ | .tokenInvalidStall _ _ | .tokenInvalidMdata _ _ => true
  | _ => false

theorem isInvalidToken_decodeToken (pid : BitVec 4) (addr : DevAddr) (ep : EpNum) :
    isInvalidToken (decodeToken pid addr ep) = true ↔
      pid ≠ 0x1#4 ∧ pid ≠ 0x9#4 ∧ pid ≠ 0x5#4 ∧ pid ≠ 0xD#4 := by
  unfold decodeToken
  split
  case h_16 => simp_all [isInvalidToken]
  all_goals simp [isInvalidToken]

/-- The encoder's word of such an instruction is a token's, which the decoder reads back. -/
theorem isInvalidToken_iff (i : Instr) : isInvalidToken i = true ↔
    ∃ pid addr ep, i = decodeToken pid addr ep ∧ pid ≠ 0x1#4 ∧ pid ≠ 0x9#4 ∧ pid ≠ 0x5#4 ∧ pid ≠ 0xD#4 := by
  constructor
  · intro h
    have htoken : ∃ pid addr ep, i = decodeToken pid addr ep := by
      cases i <;> simp only [isInvalidToken, Bool.false_eq_true] at h
      all_goals exact ⟨_, _, _, (decodeEncodeRoundTrip _ rfl).symm.trans (decode_tokenWord _ _ _)⟩
    obtain ⟨pid, addr, ep, rfl⟩ := htoken
    exact ⟨pid, addr, ep, rfl, (isInvalidToken_decodeToken pid addr ep).1 h⟩
  · rintro ⟨pid, addr, ep, rfl, h⟩
    exact (isInvalidToken_decodeToken pid addr ep).2 h

/-- The counts of errors, of invalid tokens and of waits (10 R28). -/
def counters (s : State) : Word × Word × Word := (s.errorCount, s.invalidStateCount, s.tokenWaitCount)

theorem endTxn_counters (s : State) (c : Bool) : counters (endTxn s c) = counters s := by
  obtain ⟨_, _, _, _, _, _, _, _, _, _, _, _, _, _, h⟩ := endTxn_frame s c
  rw [h]
  rfl

theorem tokenPrelude_counters (s : State) : counters (tokenPrelude s) = counters s := by
  obtain ⟨_, _, _, _, h⟩ := tokenPrelude_frame s
  rw [h]
  rfl

theorem tokenIgnored_counters (s : State) : counters (tokenIgnored s) = counters s := by
  rw [tokenIgnored_eq]
  rfl

/-- A token counts nothing, whichever way it goes, if its own routing counts nothing. -/
theorem addressedToken_counters (accept : EpNum → State → State) (addr : DevAddr) (ep : EpNum) (s : State)
    (h : ∀ u, counters (accept ep u) = counters u) : counters (addressedToken accept addr ep s) = counters s := by
  rw [← tokenPrelude_counters s]
  rcases addressedToken_cases accept addr ep s with ⟨-, e⟩ | ⟨-, -, e⟩ | ⟨-, -, e⟩ <;> rw [e]
  · exact tokenIgnored_counters _
  · rfl
  · exact h _

theorem tokenData_counters (d : Dir) (ep : EpNum) (s : State) : counters (tokenData d ep s) = counters s := by
  obtain ⟨_, _, h⟩ := routeData_frame { s with curEp := ep } d
  rw [tokenData, h]
  rfl

theorem rxByteEvent_counters (b : Byte) (s : State) : counters (rxByteEvent b s) = counters s := by
  obtain ⟨_, _, _, _, hsetup⟩ := setupReceive_frame s b
  obtain ⟨_, _, _, hout⟩ := outReceive_frame s b
  rw [rxByteEvent, hsetup, hout]
  split <;> rfl

theorem txPopEvent_counters (s : State) : counters (txPopEvent s) = counters s := by
  obtain ⟨_, -, h⟩ := inAdvance_frame s
  rw [txPopEvent, h]
  split <;> rfl

theorem debugEvent_counters (a : Bool) (s : State) : counters (debugEvent a s) = counters s := by
  unfold debugEvent
  split
  · split <;> rfl
  · rfl

/-- A NOP counts one wait if the bus is busy in R_WAIT (40 R123). -/
theorem nopEvent_counters (i : Bool) (s : State) : counters (nopEvent i s) =
    (s.errorCount, s.invalidStateCount,
      if i = false ∧ s.route = .rWait then satInc s.cfg s.tokenWaitCount else s.tokenWaitCount) := by
  by_cases h : s.route = .rWait
  · cases i
    · rw [nopEvent_busy h, if_pos ⟨rfl, h⟩, counters]
    · rw [nopEvent_idle h, if_neg (by simp)]
      exact tokenIgnored_counters s
  · rw [nopEvent_of_not_wait i h, if_neg fun hw => h hw.2, counters]

theorem tokenInvalid_counters (s : State) : counters (tokenInvalid s) =
    (s.errorCount, satInc s.cfg s.invalidStateCount, s.tokenWaitCount) := by
  obtain ⟨_, _, _, _, h⟩ := tokenPrelude_frame s
  rw [tokenInvalid, h]
  rfl

/-- The counters after the instruction: one event for each, and nothing else counts. -/
def countersAfter (i : Instr) (s : State) : Word × Word × Word :=
  (if i = .err then satInc s.cfg s.errorCount else s.errorCount,
    if isInvalidToken i = true then satInc s.cfg s.invalidStateCount else s.invalidStateCount,
    if i = .nop false ∧ s.route = .rWait then satInc s.cfg s.tokenWaitCount else s.tokenWaitCount)

theorem eventOf_counters {i : Instr} (s : State) (hi : i.agent = .protocol) :
    counters (eventOf i s) = countersAfter i s := by
  cases i <;> simp only [Instr.agent, reduceCtorEq] at hi <;>
    simp only [countersAfter, isInvalidToken, reduceCtorEq, false_and, if_true, if_false, Bool.false_eq_true]
  case nop i => simpa only [eventOf, Instr.nop.injEq] using nopEvent_counters i s
  case start =>
    rw [eventOf, startTxn_eq]
    exact endTxn_counters s false
  case tokenOut addr ep => exact addressedToken_counters _ _ _ _ (tokenData_counters _ _)
  case tokenIn addr ep => exact addressedToken_counters _ _ _ _ (tokenData_counters _ _)
  case tokenSetup addr ep => exact addressedToken_counters _ _ _ _ fun _ => rfl
  case tokenSof addr ep => exact (tokenIgnored_counters _).trans (tokenPrelude_counters s)
  case rxb b => exact rxByteEvent_counters b s
  case txpop => exact txPopEvent_counters s
  case txnEnd c => exact endTxn_counters s c
  case err => exact endTxn_counters _ false
  case brst => exact endTxn_counters s false
  case dbg a => exact debugEvent_counters a s
  case dend | reservedKindAB | reservedKindCF => rfl
  all_goals exact tokenInvalid_counters s

/-- No CPU access counts anything: none is one of the three events, which are the protocol agent's. -/
theorem countersAfter_control {i : Instr} (s : State) (hi : i.agent = .control) : countersAfter i s = counters s := by
  cases i <;> simp only [Instr.agent, reduceCtorEq] at hi <;> rfl

theorem countersAfter_protocolFrame (i : Instr) (s : State) :
    countersAfter i (protocolFrame s) = countersAfter i s := by
  simp [countersAfter]

theorem exec_counters {i : Instr} {s t : State} (hx : exec i s = .next t) : counters t = countersAfter i s := by
  cases hi : i.agent
  case protocol => rw [exec_protocol_next hi hx, eventOf_counters _ hi, countersAfter_protocolFrame]
  case control =>
    obtain ⟨_, _, _, _, _, _, _, _, _, _, _, _, rfl⟩ := exec_control_next hi hx
    exact (countersAfter_control s hi).symm

/-- A counter that counts if `c` holds stays within its width (10 R28). -/
theorem ite_satInc_le_ctrMax (p : Config.Params) {w : Word} (h : w.toNat ≤ p.ctrMax) (c : Prop) [Decidable c] :
    (if c then satInc p w else w).toNat ≤ p.ctrMax := by
  split
  · exact satInc_le_ctrMax p w h
  · exact h

end Sys2Proof.Machine

open Sys2Proof Sys2Proof.Machine

/-- Settles O8: a protocol instruction runs its event after the frame, and a CPU access its read or write. -/
theorem everyLegalWordHasANextState : Obligations.EveryLegalWordHasANextState := by
  intro i s hab hcf
  cases hi : i.agent
  case protocol => exact ⟨_, exec_protocol_eq s hi hab hcf⟩
  case control =>
    obtain ⟨_, _, _, _, _, _, _, _, _, _, _, _, hx⟩ := exec_control_frame s hi
    exact ⟨_, hx⟩

/-- Settles O34: the report is made before the transaction is abandoned, which does not touch it. -/
theorem errResult : Obligations.ErrResult := by
  refine fun s => ⟨_, exec_txnEnd false s, ?_⟩
  rw [exec_err, errorEvent, abandon_eq, endTxn_false_report, protocolFrame_cfg, protocolFrame_errorCount]
  rfl

/-- Settles O54: a bit after the step is one the commit raised or one the step kept. -/
theorem pendingBitsFollowTheirEvents : Obligations.PendingBitsFollowTheirEvents := by
  refine ⟨rfl, fun i s t hx => ⟨?_, ?_, ?_⟩⟩
  · rw [exec_evPend_iff hx (by decide), commitEvents_setup]
    rfl
  · rw [exec_evPend_iff hx (by decide), commitEvents_in]
    rfl
  · rw [exec_evPend_iff hx (by decide), commitEvents_out]
    rfl

/-- Settles O56: each counter after the step is the one of `countersAfter`, which saturates within the width. -/
theorem countersOnlyCountTheirEvents : Obligations.CountersOnlyCountTheirEvents := by
  refine ⟨⟨rfl, rfl, rfl⟩, fun i s t hx => ?_⟩
  have hcount := exec_counters hx
  simp only [counters, countersAfter, Prod.mk.injEq] at hcount
  obtain ⟨herr, hinvalid, hwait⟩ := hcount
  refine ⟨herr, hwait, fun h => ?_, fun h => ?_, fun ⟨he, hv, hw⟩ => ?_⟩
  · rw [hinvalid, if_pos ((isInvalidToken_iff i).2 h)]
    rfl
  · rw [hinvalid, if_neg (mt (isInvalidToken_iff i).1 h)]
  · rw [CounterInv, (exec_next_cfg_inputs hx).1, herr, hinvalid, hwait]
    exact ⟨ite_satInc_le_ctrMax _ he _, ite_satInc_le_ctrMax _ hv _, ite_satInc_le_ctrMax _ hw _⟩

/-- Settles O35: BRST abandons, and clears both copies. -/
theorem brstResult : Obligations.BrstResult := by
  refine fun s => ⟨_, exec_txnEnd false s, ?_⟩
  rw [exec_brst, busResetEvent, abandon_eq]
end

