-- ==== Sys2Proof/Proofs/Reset.lean ====
section
/-! PROOFS. Power-on reset of 70_reset_and_hazards.md: the value of every field (R340) and what is observable (R341). -/

namespace Sys2Proof.Machine

/-- The three status registers after power-on reset show the two IDLE bits and nothing else (70 R341). -/
theorem statusWords_reset : setupStatusWord State.reset = 0 ∧ inStatusWord State.reset = 2 ∧
    outStatusWord State.reset = 2 := by decide

/-- With no transaction open the engine drives nothing but the outputs that do not depend on a route (40 R140). -/
theorem outputs_of_rNone {s : State} (h : s.route = .rNone) : outputs s =
    { arm := false, stall := false, dtb := false, txHave := false, txByte := 0, rxSink := false, reset := s.rstPulse,
      address := s.addrEff, irq := irq s } := by
  obtain ⟨harm, hstall, hdtb, hhave, -⟩ := signals_of_none_or_wait (.inl h)
  have hbyte : txByteSignal s = 0 := by rw [txByteSignal_of_not_debug (by simp [h]), hhave, if_neg Bool.false_ne_true]
  have hsink : rxSinkSignal s = false := Bool.eq_false_iff.2 ((rxSinkSignal_iff s).not.2 (by simp [h]))
  rw [outputs, harm, hstall, hdtb, hhave, hbyte, hsink]

/-- With no event pending no interrupt is raised, whatever is enabled (10 R38). -/
theorem irq_of_no_event {s : State} (h : s.evPend = 0) : irq s = false := by simp [irq, h]

end Sys2Proof.Machine

open Sys2Proof Sys2Proof.Machine

/-- Settles O10: the record that defines the reset state, field by field. -/
theorem powerOnResetValues : Obligations.PowerOnResetValues := by
  unfold Obligations.PowerOnResetValues
  and_intros <;> rfl

/-- Settles O11: the global registers show fields that are 0, the status registers their words at reset, and the data
registers the free byte of an empty FIFO; no transaction is open and no event pending. -/
theorem powerOnObservables : Obligations.PowerOnObservables := by
  intro n s
  obtain ⟨hsetup, hin, hout⟩ := statusWords_reset
  refine ⟨fun i hi => ?zero, fun i hi => ?idle, fun i hi => ?free, ?outputs⟩
  case zero =>
    obtain ⟨haddr, henOut, henIn, herr, hinvalid, hwait, hpend, hen, hstage⟩ := globalRegisterReadResults s
    fin_cases hi
    exacts [haddr, henOut, henIn, hstage (.idle, 0) List.mem_cons_self rfl, herr, hinvalid, hwait, hpend, hen,
      congrArg (cpuRead · s) hsetup]
  case idle =>
    fin_cases hi
    exacts [congrArg (cpuRead · s) hin, congrArg (cpuRead · s) hout]
  case free =>
    obtain ⟨-, hsetupEmpty, -⟩ := setupDataAndAdvanceResults s
    obtain ⟨-, houtEmpty, -⟩ := outDataAndCtrlResults s
    fin_cases hi
    exacts [(hsetupEmpty rfl).1, houtEmpty rfl]
  case outputs =>
    rw [outputs_of_rNone (s := s) rfl, irq_of_no_event (s := s) rfl]
    rfl
end
